-- ==== Sys2Proof/Word.lean ====
section
/-! DEFINITION. The word types of the HPC block (spec/00_scope.md R10, spec/10_state.md R36): every width the spec
gives, and no arithmetic beyond what `BitVec` has. All values are unsigned (R10). -/

namespace Sys2Proof

/-- A port register, a transferred byte, a text byte: 8 bits (R36; PORT_W = 8, R6). -/
abbrev Byte := BitVec 8

/-- A command word: 16 bits, handed over whole (spec/30_encoding.md R57). -/
abbrev CmdWord := BitVec 16

/-- A DDRAM address, and the cursor CUR: 7 bits (spec/10_state.md R19, spec/20_memory.md R40). -/
abbrev DdramAddr := BitVec 7

/-- The source index IDX of the text walk: 6 bits (spec/10_state.md R19). -/
abbrev TextIndex := BitVec 6

end Sys2Proof
end

