-- ==== Sys2Proof/Config.lean ====
section
/-! DEFINITION. The implementation parameters of spec/00_scope.md R6 to R9 and the free value of the model.
What the spec calls normative is a constant here. What it leaves OPEN or makes an option is a field of `Config`,
and a `Config` stands in `State.cfg`, which no step changes (assumption 1): so a claim over every state is a claim over
every value of every parameter. -/

namespace Sys2Proof

/-- EN8_RELEASE (R9 b; spec/90_conflicts.md C4): which component lowers EN after an eight-bit write strobe. -/
inductive En8Release where
  /-- The Busy-Flag Monitor does, in its first poll iteration: the default. -/
  | byMonitor
  /-- The Transfer Engine does, at step E6. -/
  | byEngine
deriving DecidableEq, Repr

/-- RS_BIT, RW_BIT and EN_BIT (R6): the places of the three control lines in the control port, pairwise distinct.
The check is a field, so no pin map with two lines on one bit can be written. -/
structure Pins where
  rsBit : Fin 8
  rwBit : Fin 8
  enBit : Fin 8
  distinct : (rsBit != rwBit && rsBit != enBit && rwBit != enBit) = true
deriving DecidableEq, Repr

/-- The parameters of the block. `pollCap` is POLL_CAP of R9 (a): none, or a count of at least 1.
The nine `cmd…` bytes are those of R8 and `term` is TERM of R6. -/
structure Config where
  pins : Pins
  pollCap : Option { c : Nat // 0 < c }
  en8Release : En8Release
  cmdFsReset : Byte
  cmdFsSwitch4 : Byte
  cmdFs8 : Byte
  cmdFs4 : Byte
  cmdDisplayOff : Byte
  cmdClear : Byte
  cmdEntryMode : Byte
  cmdDisplayOn : Byte
  cmdSetDdram : Byte
  term : Byte
deriving DecidableEq, Repr

namespace Config

/-- The defaults the spec gives: POLL_CAP none and EN8_RELEASE ByMonitor (R9), the byte values of the table of R8 and
TERM = 0x00 (R6). The three pin positions have no default in the spec: bits 0, 1 and 2 are a DESIGN CHOICE
(assumption 2), and no claim about them is made. -/
def standard : Config where
  pins := { rsBit := 0, rwBit := 1, enBit := 2, distinct := rfl }
  pollCap := none
  en8Release := .byMonitor
  cmdFsReset := 0x30
  cmdFsSwitch4 := 0x20
  cmdFs8 := 0x38
  cmdFs4 := 0x28
  cmdDisplayOff := 0x08
  cmdClear := 0x01
  cmdEntryMode := 0x06
  cmdDisplayOn := 0x0C
  cmdSetDdram := 0x80
  term := 0x00

/-- BF_BIT (R6): the bus bit on which the busy flag is sampled, the most significant. -/
abbrev bfBit : Nat := 7

/-- The mask of BF_BIT, the pins that step B3 turns into inputs (spec/41_busy_flag_monitor.md R85). -/
abbrev bfMask : Byte := 0x80

/-- NIB_MASK (R6): the bus bits that carry a nibble in four-bit mode. -/
abbrev nibMask : Byte := 0xF0

/-- LINE1_ADDR (R6, spec/20_memory.md R43). -/
abbrev line1Addr : DdramAddr := 0x00

/-- LINE2_ADDR (R6, R43). -/
abbrev line2Addr : DdramAddr := 0x40

/-- LINE_LEN (R6): the source index at which the cursor is forced to line 2. -/
abbrev lineLen : Nat := 16

/-- MAX_IDX (R6): the number of source positions DISPLAY examines at most. -/
abbrev maxIdx : Nat := 32

/-- NL (R6): the newline marker. -/
abbrev newline : Byte := 0x0A

/-- The seven timing constants of R7, in microseconds, each a lower bound. -/
abbrev tPower : Nat := 45000
abbrev tRst1 : Nat := 4100
abbrev tRst2 : Nat := 100
abbrev tRst3 : Nat := 100
abbrev tModesw : Nat := 600
abbrev tNib : Nat := 800
abbrev tBfm : Nat := 1

/-- FREE VALUE. The byte the environment answers to the bus read with this number (spec/20_memory.md R44: "No rule
constrains it"), for a read that the state lists no answer for. It has no body: nothing can be proved of its value
(assumption 3). -/
opaque freeBusByte : Nat → Byte

end Config

end Sys2Proof
end

