-- ==== Sys2Proof/Syntax.lean ====
section
/-! DEFINITION. The five commands of the block: one constructor per row of spec/opcode_table.json
(spec/30_encoding.md R59). -/

namespace Sys2Proof

/-- The HPC commands. `wri` and `wrd` take any byte (R60). `init` takes a width as an unsigned number: the spec's `init`
takes an integer, and only one that fits a byte has a command word (R71), which `Instr.wf` checks. DISPLAY's text is no
part of the word (R57): it is read from the TXT space. -/
inductive Instr where
  /-- WRI b: write instruction byte (spec/42_transfer_engine.md R93). -/
  | wri (b : Byte)
  /-- WRD b: write data byte (R94). -/
  | wrd (b : Byte)
  /-- INIT w: initialise at width w (spec/43_session_commands.md R106, R107). -/
  | init (w : Nat)
  /-- CLEAR (R110). -/
  | clear
  /-- DISPLAY (R111, R112). -/
  | display
deriving DecidableEq, Repr

end Sys2Proof
end

