-- ==== Sys2Proof/WellFormed.lean ====
section
/-! DEFINITION. Which commands have a command word (spec/30_encoding.md R58, R60, R71): the operand of INIT must fit
the eight bits of `arg`. The operands of WRI and WRD are bytes by their type, and CLEAR and DISPLAY have none. -/

namespace Sys2Proof

/-- The command has a 16-bit word. "widths that do not fit a byte have no command word" (R71). -/
def Instr.wf : Instr → Bool
  | .wri _ => true
  | .wrd _ => true
  | .init w => decide (w < 256)
  | .clear => true
  | .display => true

end Sys2Proof
end

