-- ==== Sys2Proof/Decode.lean ====
section
/-! DEFINITION. The command word of spec/30_encoding.md: format C (R58), the opcode map (R59), the decoder, total on
all 65536 words and naming what it rejects (R66), and the encoder. The word arrives whole from the host (R57), so there
is no byte order and no length to read (R69). -/

namespace Sys2Proof

/-- Why a word is reserved (R66). -/
inductive DecodeError where
  /-- Bits 15 to 12 are not zero. -/
  | zeroFieldNotZero
  /-- `op` is one of 0x0, 0x3, 0x7 to 0xF. -/
  | reservedOpcode
  /-- CLEAR or DISPLAY with `arg` not 0x00. -/
  | operandNotZero
deriving DecidableEq, Repr

/-- Bits 15 to 12 of format C (R58). -/
def zeroField (w : CmdWord) : BitVec 4 := w.extractLsb' 12 4

/-- Bits 11 to 8 of format C, the opcode (R58). -/
def opField (w : CmdWord) : BitVec 4 := w.extractLsb' 8 4

/-- Bits 7 to 0 of format C, the operand: "an unsigned byte used as it stands" (R58). -/
def argField (w : CmdWord) : Byte := w.extractLsb' 0 8

/-- The opcodes of the table of R59. -/
abbrev opWri : BitVec 4 := 0x1
abbrev opWrd : BitVec 4 := 0x2
abbrev opInit : BitVec 4 := 0x4
abbrev opClear : BitVec 4 := 0x5
abbrev opDisplay : BitVec 4 := 0x6

/-- CLEAR and DISPLAY take no operand: `arg` must be 0x00 (R60). -/
def noOperand (i : Instr) (arg : Byte) : Except DecodeError Instr :=
  if arg = 0 then .ok i else .error .operandNotZero

/-- The decoder (R58 to R60, R66): the fields of format C, then the opcode map. -/
def decode (w : CmdWord) : Except DecodeError Instr :=
  if zeroField w ≠ 0 then .error .zeroFieldNotZero
  else if opField w = opWri then .ok (.wri (argField w))
  else if opField w = opWrd then .ok (.wrd (argField w))
  else if opField w = opInit then .ok (.init (argField w).toNat)
  else if opField w = opClear then noOperand .clear (argField w)
  else if opField w = opDisplay then noOperand .display (argField w)
  else .error .reservedOpcode

/-- A word of format C from its opcode and its operand, bits 15 to 12 zero (R58). -/
def formatC (op : BitVec 4) (arg : Byte) : CmdWord := (0 : BitVec 4) ++ op ++ arg

/-- The opcode of a command (R59). -/
def opcodeOf : Instr → BitVec 4
  | .wri _ => opWri
  | .wrd _ => opWrd
  | .init _ => opInit
  | .clear => opClear
  | .display => opDisplay

/-- The operand byte of a command (R60). -/
def operandOf : Instr → Byte
  | .wri b => b
  | .wrd b => b
  | .init w => BitVec.ofNat 8 w
  | .clear => 0
  | .display => 0

/-- The encoder: the command word of a well-formed command (R58, R59). -/
def encode (i : Instr) : CmdWord := formatC (opcodeOf i) (operandOf i)

/-- The mnemonic of a command, as the table of R59 spells it. -/
def mnemonicOf : Instr → String
  | .wri _ => "WRI"
  | .wrd _ => "WRD"
  | .init _ => "INIT"
  | .clear => "CLEAR"
  | .display => "DISPLAY"

/-- One row of the table of R59: a word belongs to the row when its bits under `mask` are `pattern`. -/
structure OpRow where
  mnemonic : String
  mask : CmdWord
  pattern : CmdWord
deriving DecidableEq, Repr

/-- The mask and match columns of the table of R59. The decoder does not use them: that it agrees with them is
a statement. -/
def opTable : List OpRow :=
  [ ⟨"WRI", 0xFF00, 0x0100⟩, ⟨"WRD", 0xFF00, 0x0200⟩, ⟨"INIT", 0xFF00, 0x0400⟩,
    ⟨"CLEAR", 0xFFFF, 0x0500⟩, ⟨"DISPLAY", 0xFFFF, 0x0600⟩ ]

/-- The word belongs to the row. -/
def OpRow.holds (r : OpRow) (w : CmdWord) : Bool := w &&& r.mask == r.pattern

/-- The instruction the decoder reads from an instruction of `nbits` bits whose bits are `w`, numbered as
spec/opcode_table.json numbers them: one 16-bit word, the bits above `nbits` zero. -/
def decodeTableWord (nbits w : Nat) : Option Instr :=
  if nbits ≤ 16 ∧ w < 2 ^ nbits then
    match decode (BitVec.ofNat 16 w) with
    | .ok i => some i
    | .error _ => none
  else none

end Sys2Proof
end

