-- ==== Sys2Proof/Machine/State.lean ====
section
/-! DEFINITION. The architectural state (spec/10_state.md R15 to R33), the sequencer's step labels (R21), the events of
the trace (spec/00_scope.md R12), what the environment supplies (R5, spec/20_memory.md R39, R44), the reasons a step can
stop, and the state after reset (R33). Plain data throughout. -/

namespace Sys2Proof.Machine

/-- The two GPIO ports: CP, the control port, and BP, the bus port (spec/20_memory.md R38). -/
inductive Port where
  | cp
  | bp
deriving DecidableEq, Repr

/-- The three control lines (spec/10_state.md R25). -/
inductive Line where
  | rs
  | rw
  | en
deriving DecidableEq, Repr

/-- The events of the trace (spec/00_scope.md R12): each micro-operation emits exactly one. A bit is a `Bool`, true
for 1, high and asserted (R10). -/
inductive Event where
  /-- DirW(p, v): the direction register of port p now holds v. -/
  | dirW (p : Port) (v : Byte)
  /-- CtlW(l, b): control line l written with bit b. -/
  | ctlW (l : Line) (b : Bool)
  /-- BusW(v): the bus output register written with v. -/
  | busW (v : Byte)
  /-- BusR(v): the bus pins read, v returned. -/
  | busR (v : Byte)
  /-- Dly(t): a delay of at least t microseconds. -/
  | dly (t : Nat)
deriving DecidableEq, Repr

/-- WIDTH, the Bus Width Mode (R22): Eight, Four, or the condition Unset of never having been written. -/
inductive BusWidth where
  | unset
  | eight
  | four
deriving DecidableEq, Repr

/-- SESS, the state of the Display Session (R23). -/
inductive Session where
  | uninitialized
  | initializing
  | ready
deriving DecidableEq, Repr

/-- SEQ (R20). -/
inductive SeqState where
  | idle
  | running
deriving DecidableEq, Repr

/-- How a command that returned has ended (spec/00_scope.md R13). Of the five outcomes, Hang is SEQ staying Running for
ever and Refused is the step's own refusal; the other three are recorded here. -/
inductive CmdOutcome where
  | done
  | noOp
  | deviceNotResponding
deriving DecidableEq, Repr

/-- The labels of WRI and WRD, whose body is one call of XFER (spec/42_transfer_engine.md R93, R94). -/
inductive EngineLabel where
  | call
  | ret
deriving DecidableEq, Repr

/-- The labels of XFER and its two bodies (R92, R95, R96); `ret` is the line `return`. -/
inductive XferLabel where
  | x1 | x2 | x3 | x4 | x5 | x6 | x7 | x8 | x9
  | e1 | e2 | e3 | e4 | e5 | e6 | e7
  | f1 | f2 | f3 | f4 | f5
  | ret
deriving DecidableEq, Repr

/-- The labels of NIBP (R97). -/
inductive NibpLabel where
  | n1 | n2 | n3 | n4 | n5 | ret
deriving DecidableEq, Repr

/-- The labels of BFW (spec/41_busy_flag_monitor.md R85). -/
inductive BfwLabel where
  | b1 | b2 | b3 | b4 | b5 | b6 | b7 | b8 | b9 | b10 | b11 | b12 | b13 | b14 | ret
deriving DecidableEq, Repr

/-- The labels of RAWP (spec/43_session_commands.md R105). -/
inductive RawpLabel where
  | p1 | p2 | p3 | p4 | p5 | p6 | p7 | p8 | p9 | p10 | p11 | p12 | p13 | ret
deriving DecidableEq, Repr

/-- The labels of INIT (R107). -/
inductive InitLabel where
  | i1 | i2 | i3 | i4 | i5 | i6 | i7 | i8 | i9 | i10 | i11 | i12 | i13 | i14 | i15 | ret
deriving DecidableEq, Repr

/-- The labels of CLEAR (R110). -/
inductive ClearLabel where
  | c1 | c2 | ret
deriving DecidableEq, Repr

/-- The labels of DISPLAY (R112). -/
inductive DisplayLabel where
  | s1 | s2 | s3 | s4 | s5 | s6 | s7 | s8 | s9 | s10 | s11 | s12 | s13 | s14
deriving DecidableEq, Repr

/-- One frame of UPC (spec/10_state.md R21): a procedure, with the operands of its call, and the label of the step it
runs next. A frame below the top holds the label it goes on at when the procedure above it returns. -/
inductive Frame where
  | wri (b : Byte) (at_ : EngineLabel)
  | wrd (b : Byte) (at_ : EngineLabel)
  | init (w : Nat) (at_ : InitLabel)
  | clear (at_ : ClearLabel)
  | display (at_ : DisplayLabel)
  | xfer (kind : Bool) (b : Byte) (at_ : XferLabel)
  | nibp (v : Byte) (at_ : NibpLabel)
  | rawp (v : Byte) (t : Nat) (at_ : RawpLabel)
  | bfw (at_ : BfwLabel)
deriving DecidableEq, Repr

/-- The four port registers that can be written (R24 to R28). -/
inductive PortReg where
  | cpOut
  | cpDir
  | bpOut
  | bpDir
deriving DecidableEq, Repr

/-- One act of the world outside the block, in the order in which it comes (spec/00_scope.md R5). -/
inductive HostAct where
  /-- The host presents a command word, with the text for DISPLAY where it supplies one (spec/30_encoding.md R57). -/
  | command (word : CmdWord) (text : Option (List Byte))
  /-- Another user of the GPIO ports writes a port register between commands (R24, spec/70_reset_and_hazards.md
  R144). -/
  | portWrite (reg : PortReg) (v : Byte)
  /-- The reset event: power-on, or the external watchdog (R140). -/
  | reset
deriving DecidableEq, Repr

/-- The bytes of an address space: pairs of address and byte, addresses strictly rising, no byte 0x00 listed
(`Memory.wf`). -/
abbrev Memory := List Host.Cell

/-- Why a step stops with a fault. The hardware has no such stop (DeviceNotResponding returns, R132): both are stuck
states of the model that no run from reset reaches. -/
inductive Fault where
  /-- SEQ is Running and UPC names no step. Raised by the sequencer's step. Safe: no rule gives a next step. -/
  | sequencerLost
  /-- Step S6 would read TXT at an index above 31, where `MemRead` has no meaning (spec/20_memory.md R39). Raised by the
  sequencer's step. Safe. -/
  | textIndexOutOfRange
deriving DecidableEq, Repr

/-- Why a step gives no meaning: the outcome Refused of spec/00_scope.md R13, with the reasons of
spec/60_exceptions.md R123. -/
inductive Refusal where
  /-- An instruction that this model gives no meaning. Raised by no arm: every instruction has its meaning. Safe. -/
  | notModelled (mnemonic : String)
  /-- A command word that no row of the opcode map matches (spec/30_encoding.md R66). Raised by `step`. Safe. -/
  | reservedCommand (why : DecodeError)
  /-- XFER with WIDTH Unset (R101, R127). Raised by WRI and WRD at step X4. Safe. -/
  | useBeforeInit
  /-- CLEAR or DISPLAY with SESS not Ready (R121, R127). Raised at steps C1 and S1. Safe. -/
  | notReady
  /-- driveBus with a bus pin not an output, or readBus with bus bit 7 not an input (R128). Raised by the sequencer's
  step in states that no run from reset reaches. Safe. -/
  | directionContract
deriving DecidableEq, Repr

/-- The machine. INVENTORY.md names for each field the rule that gives it. -/
structure State where
  /-- The configuration (R6 to R9), which no step changes. -/
  cfg : Config
  /-- WIDTH (R22). -/
  width : BusWidth
  /-- SESS (R23). -/
  sess : Session
  /-- SEQ (R20). -/
  seq : SeqState
  /-- UPC, the top frame first (R21). -/
  upc : List Frame
  /-- CP_OUT, whose bits RS_BIT, RW_BIT and EN_BIT are the control lines (R24, R25). -/
  cpOut : Byte
  /-- CP_DIR (R26). -/
  cpDir : Byte
  /-- BP_OUT (R27). -/
  bpOut : Byte
  /-- BP_DIR (R28). -/
  bpDir : Byte
  /-- BUSYF (R30). -/
  busyf : Bool
  /-- ERR_DNR (R31). -/
  errDnr : Bool
  /-- DREG (R16). -/
  dreg : Byte
  /-- KIND: false for an instruction, true for a data byte (R16). -/
  kind : Bool
  /-- SV1_CP (R17). -/
  sv1Cp : Byte
  /-- SV1_BP (R17). -/
  sv1Bp : Byte
  /-- SV2_CP (R17). -/
  sv2Cp : Byte
  /-- SV2_BP (R17). -/
  sv2Bp : Byte
  /-- NPOLL (R18). -/
  npoll : Nat
  /-- CUR (R19). -/
  cur : DdramAddr
  /-- IDX (R19). -/
  idx : TextIndex
  /-- CHR (R19). -/
  chr : Byte
  /-- The TXT space (spec/20_memory.md R39). -/
  txt : Memory
  /-- The oracle: the answers to the coming bus reads, the next one first (R44; BP_IN, R29). Past its end a read is
  answered by the free value `Config.freeBusByte`. -/
  answers : List Byte
  /-- How many bus reads have been made over the whole run: the argument of the free value (R44). -/
  reads : Nat
  /-- What the outside world does next, the first act first. -/
  host : List HostAct
  /-- The trace of the run, the oldest event first (R12). -/
  trace : List Event
  /-- How the last command that returned has ended (R13); none while one runs and before the first. -/
  outcome : Option CmdOutcome
deriving DecidableEq, Repr

/-- The state after reset, for a configuration (R33, R140): SESS = Uninitialized, WIDTH = Unset, SEQ = Idle, UPC
empty, ERR_DNR = 0. Every other register is unspecified in the spec: zero is a DESIGN CHOICE (assumption 4). Nothing is
listed in TXT, no answer and no act of the host is pending, and the trace is empty. -/
def State.resetWith (c : Config) : State where
  cfg := c
  width := .unset
  sess := .uninitialized
  seq := .idle
  upc := []
  cpOut := 0
  cpDir := 0
  bpOut := 0
  bpDir := 0
  busyf := false
  errDnr := false
  dreg := 0
  kind := false
  sv1Cp := 0
  sv1Bp := 0
  sv2Cp := 0
  sv2Bp := 0
  npoll := 0
  cur := 0
  idx := 0
  chr := 0
  txt := []
  answers := []
  reads := 0
  host := []
  trace := []
  outcome := none

/-- The state after reset with the parameters at the spec's defaults (`Config.standard`). -/
def State.reset : State := State.resetWith Config.standard

end Sys2Proof.Machine
end

