-- ==== Sys2Proof/Machine/Operands.lean ====
section
/-! DEFINITION. Every operand form of the block and all its arithmetic (spec/30_encoding.md R60 to R65, R74): the width
operand, the two nibbles, the set-DDRAM-address byte, one bit of a port register, the direction masks. -/

namespace Sys2Proof.Machine

/-- `REG[i] <- b`: write one bit, leave the others (spec/00_scope.md R11). -/
def setBit (v : Byte) (i : Fin 8) (b : Bool) : Byte :=
  if b then v ||| (1#8 <<< i.val) else v &&& ~~~(1#8 <<< i.val)

/-- `v[i]` (R10). -/
def getBit (v : Byte) (i : Fin 8) : Bool := v.getLsbD i.val

/-- pos(line): where a control line stands in the control port (spec/40_pin_interface.md R77). -/
def linePos (c : Config) : Line → Fin 8
  | .rs => c.pins.rsBit
  | .rw => c.pins.rwBit
  | .en => c.pins.enBit

/-- The high nibble as the bus carries it: `b & 0xF0` (spec/30_encoding.md R63, R74 a). -/
def highNibble (b : Byte) : Byte := b &&& Config.nibMask

/-- The low nibble, left-justified: `(b << 4) & 0xF0` (R63, R74 b). -/
def lowNibble (b : Byte) : Byte := (b <<< 4) &&& Config.nibMask

/-- "A receiver rebuilds the byte as `{first[7:4], second[7:4]}`" (R63). -/
def joinNibbles (first second : Byte) : Byte := first.extractLsb' 4 4 ++ second.extractLsb' 4 4

/-- The set-DDRAM-address byte `CMD_SET_DDRAM | zext_8(a)` (R65, R74 c). -/
def setDdramByte (c : Config) (a : DdramAddr) : Byte := c.cmdSetDdram ||| a.zeroExtend 8

/-- The new value of a direction register under setDirection: `DIR | mask` or `DIR & ~mask` (R74 h,
spec/40_pin_interface.md R76). -/
def maskDirection (dir mask : Byte) (asOutput : Bool) : Byte :=
  if asOutput then dir ||| mask else dir &&& ~~~mask

/-- The width operand of INIT: 8 selects Eight, 4 selects Four, every other number is unsupported (R60). -/
def initWidth (w : Nat) : Option BusWidth :=
  if w = 8 then some .eight else if w = 4 then some .four else none

/-- The final function-set byte of INIT, by its operand (spec/43_session_commands.md R107 step I10). -/
def initFunctionSet (c : Config) (w : Nat) : Byte := if w = 8 then c.cmdFs8 else c.cmdFs4

end Sys2Proof.Machine
end

