-- ==== Sys2Proof/Machine/Flags.lean ====
section
/-! DEFINITION. Every flag and test the block computes (spec/10_state.md R30, spec/30_encoding.md R64, R74 f and g): the
busy flag of a sample, the cap test of step B11, and the validity of the two bus accesses. There is no carry and no
overflow flag in this hardware (R74). -/

namespace Sys2Proof.Machine

/-- BUSYF = BP_IN[7]: 1 is busy, 0 is ready; bits 6 to 0 are ignored (R64). -/
def busyFlag (v : Byte) : Bool := v.getLsbD Config.bfBit

/-- The cap test of step B11: `POLL_CAP = c and NPOLL >= c`, never true with POLL_CAP none
(spec/41_busy_flag_monitor.md R85, spec/60_exceptions.md R125). -/
def capReached (c : Config) (npoll : Nat) : Bool :=
  match c.pollCap with
  | none => false
  | some cap => decide (cap.val ≤ npoll)

/-- driveBus has a meaning: every bus pin is an output (spec/40_pin_interface.md R78, spec/60_exceptions.md R128). -/
def driveBusValid (s : State) : Bool := s.bpDir == 0xFF

/-- readBus has a meaning: bus bit 7 is an input (R79, R128). -/
def readBusValid (s : State) : Bool := !s.bpDir.getLsbD Config.bfBit

/-- The level of a control line, which is its bit of CP_OUT and nothing else (spec/10_state.md R25). -/
def line (s : State) (l : Line) : Bool := getBit s.cpOut (linePos s.cfg l)

/-- The level the peripheral sees on control pin k: CP_OUT[k] where the pin is an output, not driven otherwise
(spec/40_pin_interface.md R82). -/
def controlPin (s : State) (k : Fin 8) : Option Bool :=
  if getBit s.cpDir k then some (getBit s.cpOut k) else none

/-- The level the microcontroller drives on bus pin k, none where the pin is an input (R82, spec/20_memory.md R45). -/
def busPin (s : State) (k : Fin 8) : Option Bool :=
  if getBit s.bpDir k then some (getBit s.bpOut k) else none

end Sys2Proof.Machine
end

