-- ==== Sys2Proof/Machine/Ops.lean ====
section
/-! DEFINITION. The named operations that every procedure is built from: the TXT space (spec/20_memory.md R37 to R39),
the six micro-operations of spec/40_pin_interface.md, the sample of the busy flag, the entry into the one fault
(spec/60_exceptions.md R132), the end of a command, what the host and the other users of the ports do, and the reset
event (spec/70_reset_and_hazards.md R140). -/

namespace Sys2Proof.Machine

/-! ## The TXT space -/

/-- What an address that a memory does not list reads as. The spec leaves the bytes past the text open: 0x00 is a
DESIGN CHOICE (assumption 5). -/
abbrev Memory.unlisted : Byte := 0x00

/-- The byte at an address. -/
def Memory.read : Memory → Nat → Byte
  | [], _ => Memory.unlisted
  | (a, v) :: m, i => if i = a then v else Memory.read m i

/-- Drop the entry of an address. -/
def Memory.erase : Memory → Nat → Memory
  | [], _ => []
  | (a, v) :: m, i => if i = a then m else (a, v) :: Memory.erase m i

/-- List a byte at an address, in its place by address. -/
def Memory.insert : Memory → Nat → Byte → Memory
  | [], i, b => [(i, b)]
  | (a, v) :: m, i, b =>
    if i < a then (i, b) :: (a, v) :: m
    else if i = a then (i, b) :: m
    else (a, v) :: Memory.insert m i b

/-- Write one byte, keeping the canonical form: the value an unlisted address reads as is not listed. -/
def Memory.write (m : Memory) (i : Nat) (b : Byte) : Memory :=
  if b = Memory.unlisted then Memory.erase m i else Memory.insert m i b

/-- Every listed address is at least `lo`, addresses rise strictly, and no entry is what an unlisted address reads
as. -/
def Memory.wfFrom : Nat → Memory → Bool
  | _, [] => true
  | lo, (a, v) :: m => decide (lo ≤ a) && v != Memory.unlisted && Memory.wfFrom (a + 1) m

/-- The canonical form. -/
def Memory.wf (m : Memory) : Bool := Memory.wfFrom 0 m

/-- The bytes of a text from index `i` on. -/
def Memory.ofBytesFrom : Nat → List Byte → Memory
  | _, [] => []
  | i, b :: bs =>
    if b = Memory.unlisted then Memory.ofBytesFrom (i + 1) bs else (i, b) :: Memory.ofBytesFrom (i + 1) bs

/-- The TXT space that holds a text from index 0 on (R39). -/
def Memory.ofBytes (bs : List Byte) : Memory := Memory.ofBytesFrom 0 bs

/-! ## The micro-operations (spec/40_pin_interface.md) -/

/-- Append one event to the trace (spec/00_scope.md R12). -/
def emit (e : Event) (s : State) : State := { s with trace := s.trace ++ [e] }

/-- The direction register of a port. -/
def direction (s : State) : Port → Byte
  | .cp => s.cpDir
  | .bp => s.bpDir

/-- loadDirection(p, v) (R80): `p_DIR <- v`, DirW(p, v). -/
def loadDirection (p : Port) (v : Byte) (s : State) : State :=
  match p with
  | .cp => emit (.dirW .cp v) { s with cpDir := v }
  | .bp => emit (.dirW .bp v) { s with bpDir := v }

/-- setDirection(p, mask, asOutput) (R76): the bits of `mask` become outputs or inputs, the others keep their value;
DirW with the new value, even where nothing changes. -/
def setDirection (p : Port) (mask : Byte) (asOutput : Bool) (s : State) : State :=
  loadDirection p (maskDirection (direction s p) mask asOutput) s

/-- setControl(line, asserted) (R77): one bit of CP_OUT in one indivisible step, CtlW(line, asserted). It does not
check the direction of the pin. -/
def setControl (l : Line) (b : Bool) (s : State) : State :=
  emit (.ctlW l b) { s with cpOut := setBit s.cpOut (linePos s.cfg l) b }

/-- driveBus(value) (R78): `BP_OUT <- value`, BusW(value). -/
def driveBus (v : Byte) (s : State) : State := emit (.busW v) { s with bpOut := v }

/-- readBus() (R79): the oracle's next answer (spec/20_memory.md R44), BusR(v); no register changes. The answer is the
first listed one, and a free value where none is listed. -/
def readBus (s : State) : Byte × State :=
  match s.answers with
  | v :: rest => (v, emit (.busR v) { s with answers := rest, reads := s.reads + 1 })
  | [] =>
    (Config.freeBusByte s.reads, emit (.busR (Config.freeBusByte s.reads)) { s with reads := s.reads + 1 })

/-- delay(t) (R81): Dly(t), nothing else. -/
def delay (t : Nat) (s : State) : State := emit (.dly t) s

/-- Step B8: `BUSYF <- readBus()[7]` (spec/41_busy_flag_monitor.md R85). -/
def sampleBusy (s : State) : State := { (readBus s).2 with busyf := busyFlag (readBus s).1 }

/-! ## The end of a command, and the fault -/

/-- The command has returned with this outcome: SEQ is Idle and UPC empty (spec/10_state.md R20, R21). -/
def endCommand (o : CmdOutcome) (s : State) : State :=
  { s with seq := .idle, upc := [], outcome := some o }

/-- The command is under way and UPC names the step it runs next (R20, R21). -/
def suspendAt (frames : List Frame) (s : State) : State :=
  { s with seq := .running, upc := frames, outcome := none }

/-- TAKING THE EXCEPTION. Entry into DeviceNotResponding (spec/60_exceptions.md R132), in the rule's order: the level 2
directions, then the level 1 directions are restored, ERR_DNR is set, and the whole command is abandoned. Nothing is
saved, there is no handler and no return from it (R133). DESIGN CHOICE (assumption 18): R75 and R21 make a micro-operation one
step, and R132 gives its four direction writes no step labels; here all four, ERR_DNR and the return to Idle belong to the
one step B11. -/
def raiseDeviceNotResponding (s : State) : State :=
  let s := loadDirection .cp s.sv2Cp s
  let s := loadDirection .bp s.sv2Bp s
  let s := loadDirection .cp s.sv1Cp s
  let s := loadDirection .bp s.sv1Bp s
  endCommand .deviceNotResponding { s with errDnr := true }

/-! ## The outside world -/

/-- The text that comes with a command becomes the TXT space (spec/20_memory.md R39); without one TXT stays. -/
def presentText (text : Option (List Byte)) (s : State) : State :=
  match text with
  | none => s
  | some bytes => { s with txt := Memory.ofBytes bytes }

/-- Another user of the ports writes a port register between commands; the block emits no event
(spec/10_state.md R24, spec/70_reset_and_hazards.md R144). -/
def foreignWrite (r : PortReg) (v : Byte) (s : State) : State :=
  match r with
  | .cpOut => { s with cpOut := v }
  | .cpDir => { s with cpDir := v }
  | .bpOut => { s with bpOut := v }
  | .bpDir => { s with bpDir := v }

/-- The reset event (R140): the block's registers take their reset values; no event is emitted and no port register is
written. The configuration and what belongs to the outside world stay (assumption 6). -/
def resetEvent (s : State) : State :=
  { State.resetWith s.cfg with
    cpOut := s.cpOut
    cpDir := s.cpDir
    bpOut := s.bpOut
    bpDir := s.bpDir
    txt := s.txt
    answers := s.answers
    reads := s.reads
    host := s.host
    trace := s.trace }

/-! ## How a procedure of a command ends -/

/-- What a procedure run whole comes to (spec/00_scope.md R13). -/
inductive Flow where
  /-- It has returned to its caller. -/
  | done (s : State)
  /-- The step ends here: the command has faulted, or it waits in a poll that no listed answer ends. -/
  | halted (s : State)
  /-- The model gives no meaning. -/
  | refused (r : Refusal)
deriving DecidableEq, Repr

/-- Go on after a procedure that has returned. -/
def Flow.andThen (f : Flow) (k : State → Flow) : Flow :=
  match f with
  | .done s => k s
  | .halted s => .halted s
  | .refused r => .refused r

/-- The outcome of a command whose body comes to this: a body that returns ends the command Done. -/
def Flow.toOutcome : Flow → Host.Outcome State Fault Refusal
  | .done s => .next (endCommand .done s)
  | .halted s => .next s
  | .refused r => .refused r

end Sys2Proof.Machine
end

