-- ==== Sys2Proof/Machine/BusyFlag.lean ====
section
/-! DEFINITION. The Busy-Flag Monitor: the procedure BFW of spec/41_busy_flag_monitor.md R85, run whole. It does not read
WIDTH (R88). The wait has no timeout (R87): it runs through the listed answers of the oracle, and where they run out
with the display still busy the command stays Running at step B7, from where `step` goes on one label at a time. -/

namespace Sys2Proof.Machine

/-- Steps B1 to B6: save both directions at level 2, make bus bit 7 an input, RS = 0, RW = 1, NPOLL = 0. -/
def bfwEnter (s : State) : State :=
  let s := { s with sv2Cp := s.cpDir }
  let s := { s with sv2Bp := s.bpDir }
  let s := setDirection .bp Config.bfMask false s
  let s := setControl .rs false s
  let s := setControl .rw true s
  { s with npoll := 0 }

/-- Steps B7 to B10, one poll iteration: EN = 1, sample, EN = 0, count. -/
def pollOnce (s : State) : State :=
  let s := setControl .en true s
  let s := sampleBusy s
  let s := setControl .en false s
  { s with npoll := s.npoll + 1 }

/-- Steps B12 to B14: the margin of one microsecond, then both directions restored from level 2. -/
def bfwLeave (s : State) : State :=
  let s := delay Config.tBfm s
  let s := loadDirection .cp s.sv2Cp s
  loadDirection .bp s.sv2Bp s

/-- The loop B7 to B11 through the listed answers, with `callers` the frames below BFW. A busy sample goes back to B7,
or raises DeviceNotResponding when the cap is reached (R85, R125). -/
def pollLoop (callers : List Frame) : List Byte → State → Flow
  | [], s => .halted (suspendAt (.bfw .b7 :: callers) s)
  | _ :: rest, s =>
    let s := pollOnce s
    if s.busyf then
      if capReached s.cfg s.npoll then .halted (raiseDeviceNotResponding s)
      else pollLoop callers rest s
    else .done (bfwLeave s)

/-- BFW (R85). -/
def bfw (callers : List Frame) (s : State) : Flow :=
  let s := bfwEnter s
  pollLoop callers s.answers s

end Sys2Proof.Machine
end

