-- ==== Sys2Proof/Machine/Transfer.lean ====
section
/-! DEFINITION. The Transfer Engine (spec/42_transfer_engine.md): XFER with its eight-bit and four-bit bodies and the
nibble pulse NIBP, run whole, and the commands WRI and WRD. -/

namespace Sys2Proof.Machine

/-- Steps X2, X3, X5, X6 (and P1 to P4): save both directions at level 1, "configure both ports fully as outputs"
(R92, spec/43_session_commands.md R105). -/
def openPorts (s : State) : State :=
  let s := { s with sv1Cp := s.cpDir }
  let s := { s with sv1Bp := s.bpDir }
  let s := setDirection .cp 0xFF true s
  setDirection .bp 0xFF true s

/-- Steps X8, X9 (and P12, P13): both directions restored from level 1. -/
def closePorts (s : State) : State :=
  let s := loadDirection .cp s.sv1Cp s
  loadDirection .bp s.sv1Bp s

/-- Steps E1 to E6 (R95). The engine lowers EN only with EN8_RELEASE = ByEngine. -/
def eightBitStrobe (s : State) : State :=
  let s := setControl .en false s
  let s := driveBus s.dreg s
  let s := setControl .rs s.kind s
  let s := setControl .rw false s
  let s := setControl .en true s
  match s.cfg.en8Release with
  | .byMonitor => s
  | .byEngine => setControl .en false s

/-- NIBP(v) (R97): the nibble, EN = 1, a delay, EN = 0, a delay. -/
def nibblePulse (v : Byte) (s : State) : State :=
  let s := driveBus v s
  let s := setControl .en true s
  let s := delay Config.tNib s
  let s := setControl .en false s
  delay Config.tNib s

/-- Steps F1 to F4 (R96): RS and RW once, then the high nibble, then the low nibble. -/
def fourBitStrobes (s : State) : State :=
  let s := setControl .rs s.kind s
  let s := setControl .rw false s
  let s := nibblePulse (highNibble s.dreg) s
  nibblePulse (lowNibble s.dreg) s

/-- XFER(kind, b) (R92), with `callers` the frames below it. X1 loads the operands, X4 refuses a transfer with WIDTH
Unset, and both bodies end in BFW. -/
def xfer (callers : List Frame) (kind : Bool) (b : Byte) (s : State) : Flow :=
  let s := { s with dreg := b, kind := kind }
  match s.width with
  | .unset => .refused .useBeforeInit
  | .eight =>
    (bfw (.xfer kind b .x8 :: callers) (eightBitStrobe (openPorts s))).andThen fun s => .done (closePorts s)
  | .four =>
    (bfw (.xfer kind b .x8 :: callers) (fourBitStrobes (openPorts s))).andThen fun s => .done (closePorts s)

/-- WRI b (R93): `call XFER(0, b)`. It does not read SESS. -/
def execWri (b : Byte) (s : State) : Host.Outcome State Fault Refusal :=
  (xfer [.wri b .ret] false b s).toOutcome

/-- WRD b (R94): `call XFER(1, b)`. It does not read SESS. -/
def execWrd (b : Byte) (s : State) : Host.Outcome State Fault Refusal :=
  (xfer [.wrd b .ret] true b s).toOutcome

end Sys2Proof.Machine
end

