-- ==== Sys2Proof/Machine/Session.lean ====
section
/-! DEFINITION. The Display Session (spec/43_session_commands.md): the raw pulse RAWP, run whole, and the commands INIT,
CLEAR and DISPLAY. -/

namespace Sys2Proof.Machine

/-- RAWP(v, t) (R105): an instruction write of v with one strobe of EN and a fixed delay, no busy-flag wait, inside the
save and restore frame. It does not read WIDTH. -/
def rawPulse (v : Byte) (t : Nat) (s : State) : State :=
  let s := openPorts s
  let s := setControl .en false s
  let s := driveBus v s
  let s := setControl .rs false s
  let s := setControl .rw false s
  let s := setControl .en true s
  let s := setControl .en false s
  let s := delay t s
  closePorts s

/-- Steps I2 to I8 of INIT (R107): SESS = Initializing, the power delay, three reset pulses, and for width 4 the
mode-switch pulse. -/
def initPulses (w : Nat) (s : State) : State :=
  let s := { s with sess := .initializing }
  let s := delay Config.tPower s
  let s := rawPulse s.cfg.cmdFsReset Config.tRst1 s
  let s := rawPulse s.cfg.cmdFsReset Config.tRst2 s
  let s := rawPulse s.cfg.cmdFsReset Config.tRst3 s
  if w = 8 then s else rawPulse s.cfg.cmdFsSwitch4 Config.tModesw s

/-- Steps I10 to I15 of INIT (R107): the five transfers, then SESS = Ready. -/
def initTransfers (w : Nat) (s : State) : Flow :=
  (xfer [.init w .i11] false (initFunctionSet s.cfg w) s).andThen fun s =>
  (xfer [.init w .i12] false s.cfg.cmdDisplayOff s).andThen fun s =>
  (xfer [.init w .i13] false s.cfg.cmdClear s).andThen fun s =>
  (xfer [.init w .i14] false s.cfg.cmdEntryMode s).andThen fun s =>
  (xfer [.init w .i15] false s.cfg.cmdDisplayOn s).andThen fun s =>
  .done { s with sess := .ready }

/-- INIT w (R106, R107). A width other than 4 and 8 ends NoOp at step I1: no event, no register changed. It does not
read SESS, so it runs again on a session that is Ready (R109). -/
def execInit (w : Nat) (s : State) : Host.Outcome State Fault Refusal :=
  match initWidth w with
  | none => .next (endCommand .noOp s)
  | some width => (initTransfers w { initPulses w s with width := width }).toOutcome

/-- CLEAR (R110, R121): refused unless SESS is Ready, else `call XFER(0, CMD_CLEAR)`. -/
def execClear (s : State) : Host.Outcome State Fault Refusal :=
  match s.sess with
  | .ready => (xfer [.clear .ret] false s.cfg.cmdClear s).toOutcome
  | .uninitialized => .refused .notReady
  | .initializing => .refused .notReady

/-- Step S8: position 16 forces the cursor to line 2 (R112, R117). -/
def forceLine2 (s : State) : State :=
  if s.idx.toNat = Config.lineLen then { s with cur := Config.line2Addr } else s

/-- Step S9 on a newline: the cursor to line 2, the index on by exactly one (R112, R116). -/
def takeNewline (s : State) : State := { s with cur := Config.line2Addr, idx := s.idx + 1 }

/-- Steps S12, S13: index and cursor on by one. -/
def advanceCursor (s : State) : State := { s with idx := s.idx + 1, cur := s.cur + 1 }

/-- Step S6: `CHR <- MemRead(TXT, IDX, 1)`. -/
def loadChar (s : State) : State := { s with chr := Memory.read s.txt s.idx.toNat }

/-- The text walk, steps S5 to S14 (R112, R113), for at most `n` passes. The tests stand in the order of R113, and each
written character is a set-address transfer and a data transfer (R114). -/
def textWalk : Nat → State → Flow
  | 0, s => .done s
  | n + 1, s =>
    if Config.maxIdx ≤ s.idx.toNat then .done s
    else
      let s := loadChar s
      if s.chr = s.cfg.term then .done s
      else
        let s := forceLine2 s
        if s.chr = Config.newline then textWalk n (takeNewline s)
        else
          (xfer [.display .s11] false (setDdramByte s.cfg s.cur) s).andThen fun s =>
          (xfer [.display .s12] true s.chr s).andThen fun s =>
          textWalk n (advanceCursor s)

/-- DISPLAY (R111, R112, R121): refused unless SESS is Ready, else the clear, CUR = 0x00, IDX = 0 and the walk. Every
pass but the last moves IDX on by one from 0 to 32 at most, so 33 passes are enough for any text. -/
def execDisplay (s : State) : Host.Outcome State Fault Refusal :=
  match s.sess with
  | .ready =>
    ((xfer [.display .s3] false s.cfg.cmdClear s).andThen fun s =>
      textWalk (Config.maxIdx + 1) { s with cur := Config.line1Addr, idx := 0 }).toOutcome
  | .uninitialized => .refused .notReady
  | .initializing => .refused .notReady

end Sys2Proof.Machine
end

