-- ==== Sys2Proof/Machine/Dispatch.lean ====
section
/-! DEFINITION. The meaning of every command, one arm per constructor of `Instr` (spec/30_encoding.md R59). -/

namespace Sys2Proof.Machine

def exec (i : Instr) (s : State) : Host.Outcome State Fault Refusal :=
  match i with
  | .wri b => Sys2Proof.Machine.execWri b s
  | .wrd b => Sys2Proof.Machine.execWrd b s
  | .init w => Sys2Proof.Machine.execInit w s
  | .clear => Sys2Proof.Machine.execClear s
  | .display => Sys2Proof.Machine.execDisplay s

end Sys2Proof.Machine
end

