-- ==== Sys2Proof/Machine/Sequencer.lean ====
section
/-! DEFINITION. The sequencer (spec/10_state.md R20, R21): one step of UPC, label by label, for every procedure of files
41 to 43. It is the small-step reading of the commands whose big-step reading the meanings give. `step` uses it while
SEQ is Running; that both readings come to the same state and trace (R21) is a statement. -/

namespace Sys2Proof.Machine

/-- The step is made and UPC moves to the label in `f`, the frames below unchanged. -/
def advance (f : Frame) (below : List Frame) (s : State) : Host.Outcome State Fault Refusal :=
  .next { s with upc := f :: below }

/-- `call P`: a frame for P on top of the caller's, which holds the label it goes on at. -/
def callFrom (callee caller : Frame) (below : List Frame) (s : State) : Host.Outcome State Fault Refusal :=
  .next { s with upc := callee :: caller :: below }

/-- `return` to the frame below; from the bottom frame the command ends with this outcome (R20). -/
def returnWith (o : CmdOutcome) (below : List Frame) (s : State) : Host.Outcome State Fault Refusal :=
  match below with
  | [] => .next (endCommand o s)
  | f :: fs => .next { s with upc := f :: fs }

/-- One step of WRI (spec/42_transfer_engine.md R93). -/
def wriStep (b : Byte) (l : EngineLabel) (below : List Frame) (s : State) : Host.Outcome State Fault Refusal :=
  match l with
  | .call => callFrom (.xfer false b .x1) (.wri b .ret) below s
  | .ret => returnWith .done below s

/-- One step of WRD (R94). -/
def wrdStep (b : Byte) (l : EngineLabel) (below : List Frame) (s : State) : Host.Outcome State Fault Refusal :=
  match l with
  | .call => callFrom (.xfer true b .x1) (.wrd b .ret) below s
  | .ret => returnWith .done below s

/-- driveBus as a step: it has a meaning only with every bus pin an output (spec/60_exceptions.md R128). -/
def driveStep (v : Byte) (f : Frame) (below : List Frame) (s : State) : Host.Outcome State Fault Refusal :=
  if driveBusValid s then advance f below (driveBus v s) else .refused .directionContract

/-- One step of XFER and of its bodies (R92, R95, R96). -/
def xferStep (k : Bool) (b : Byte) (l : XferLabel) (below : List Frame) (s : State) :
    Host.Outcome State Fault Refusal :=
  match l with
  | .x1 => advance (.xfer k b .x2) below { s with dreg := b, kind := k }
  | .x2 => advance (.xfer k b .x3) below { s with sv1Cp := s.cpDir }
  | .x3 => advance (.xfer k b .x4) below { s with sv1Bp := s.bpDir }
  | .x4 => if s.width = .unset then .refused .useBeforeInit else advance (.xfer k b .x5) below s
  | .x5 => advance (.xfer k b .x6) below (setDirection .cp 0xFF true s)
  | .x6 => advance (.xfer k b .x7) below (setDirection .bp 0xFF true s)
  | .x7 => if s.width = .eight then advance (.xfer k b .e1) below s else advance (.xfer k b .f1) below s
  | .x8 => advance (.xfer k b .x9) below (loadDirection .cp s.sv1Cp s)
  | .x9 => advance (.xfer k b .ret) below (loadDirection .bp s.sv1Bp s)
  | .e1 => advance (.xfer k b .e2) below (setControl .en false s)
  | .e2 => driveStep s.dreg (.xfer k b .e3) below s
  | .e3 => advance (.xfer k b .e4) below (setControl .rs s.kind s)
  | .e4 => advance (.xfer k b .e5) below (setControl .rw false s)
  | .e5 => advance (.xfer k b .e6) below (setControl .en true s)
  | .e6 =>
    match s.cfg.en8Release with
    | .byMonitor => advance (.xfer k b .e7) below s
    | .byEngine => advance (.xfer k b .e7) below (setControl .en false s)
  | .e7 => callFrom (.bfw .b1) (.xfer k b .x8) below s
  | .f1 => advance (.xfer k b .f2) below (setControl .rs s.kind s)
  | .f2 => advance (.xfer k b .f3) below (setControl .rw false s)
  | .f3 => callFrom (.nibp (highNibble s.dreg) .n1) (.xfer k b .f4) below s
  | .f4 => callFrom (.nibp (lowNibble s.dreg) .n1) (.xfer k b .f5) below s
  | .f5 => callFrom (.bfw .b1) (.xfer k b .x8) below s
  | .ret => returnWith .done below s

/-- One step of NIBP (R97). -/
def nibpStep (v : Byte) (l : NibpLabel) (below : List Frame) (s : State) : Host.Outcome State Fault Refusal :=
  match l with
  | .n1 => driveStep v (.nibp v .n2) below s
  | .n2 => advance (.nibp v .n3) below (setControl .en true s)
  | .n3 => advance (.nibp v .n4) below (delay Config.tNib s)
  | .n4 => advance (.nibp v .n5) below (setControl .en false s)
  | .n5 => advance (.nibp v .ret) below (delay Config.tNib s)
  | .ret => returnWith .done below s

/-- One step of BFW (spec/41_busy_flag_monitor.md R85). B11 loops, raises (whole, in this step: assumption 18) or goes on; with POLL_CAP none and a display
that stays busy it loops for ever (R87). -/
def bfwStep (l : BfwLabel) (below : List Frame) (s : State) : Host.Outcome State Fault Refusal :=
  match l with
  | .b1 => advance (.bfw .b2) below { s with sv2Cp := s.cpDir }
  | .b2 => advance (.bfw .b3) below { s with sv2Bp := s.bpDir }
  | .b3 => advance (.bfw .b4) below (setDirection .bp Config.bfMask false s)
  | .b4 => advance (.bfw .b5) below (setControl .rs false s)
  | .b5 => advance (.bfw .b6) below (setControl .rw true s)
  | .b6 => advance (.bfw .b7) below { s with npoll := 0 }
  | .b7 => advance (.bfw .b8) below (setControl .en true s)
  | .b8 => if readBusValid s then advance (.bfw .b9) below (sampleBusy s) else .refused .directionContract
  | .b9 => advance (.bfw .b10) below (setControl .en false s)
  | .b10 => advance (.bfw .b11) below { s with npoll := s.npoll + 1 }
  | .b11 =>
    if s.busyf then
      if capReached s.cfg s.npoll then .next (raiseDeviceNotResponding s) else advance (.bfw .b7) below s
    else advance (.bfw .b12) below s
  | .b12 => advance (.bfw .b13) below (delay Config.tBfm s)
  | .b13 => advance (.bfw .b14) below (loadDirection .cp s.sv2Cp s)
  | .b14 => advance (.bfw .ret) below (loadDirection .bp s.sv2Bp s)
  | .ret => returnWith .done below s

/-- One step of RAWP (spec/43_session_commands.md R105). -/
def rawpStep (v : Byte) (t : Nat) (l : RawpLabel) (below : List Frame) (s : State) :
    Host.Outcome State Fault Refusal :=
  match l with
  | .p1 => advance (.rawp v t .p2) below { s with sv1Cp := s.cpDir }
  | .p2 => advance (.rawp v t .p3) below { s with sv1Bp := s.bpDir }
  | .p3 => advance (.rawp v t .p4) below (setDirection .cp 0xFF true s)
  | .p4 => advance (.rawp v t .p5) below (setDirection .bp 0xFF true s)
  | .p5 => advance (.rawp v t .p6) below (setControl .en false s)
  | .p6 => driveStep v (.rawp v t .p7) below s
  | .p7 => advance (.rawp v t .p8) below (setControl .rs false s)
  | .p8 => advance (.rawp v t .p9) below (setControl .rw false s)
  | .p9 => advance (.rawp v t .p10) below (setControl .en true s)
  | .p10 => advance (.rawp v t .p11) below (setControl .en false s)
  | .p11 => advance (.rawp v t .p12) below (delay t s)
  | .p12 => advance (.rawp v t .p13) below (loadDirection .cp s.sv1Cp s)
  | .p13 => advance (.rawp v t .ret) below (loadDirection .bp s.sv1Bp s)
  | .ret => returnWith .done below s

/-- One step of INIT (R106, R107). -/
def initStep (w : Nat) (l : InitLabel) (below : List Frame) (s : State) : Host.Outcome State Fault Refusal :=
  match l with
  | .i1 => if w ≠ 4 ∧ w ≠ 8 then returnWith .noOp below s else advance (.init w .i2) below s
  | .i2 => advance (.init w .i3) below { s with sess := .initializing }
  | .i3 => advance (.init w .i4) below (delay Config.tPower s)
  | .i4 => callFrom (.rawp s.cfg.cmdFsReset Config.tRst1 .p1) (.init w .i5) below s
  | .i5 => callFrom (.rawp s.cfg.cmdFsReset Config.tRst2 .p1) (.init w .i6) below s
  | .i6 => callFrom (.rawp s.cfg.cmdFsReset Config.tRst3 .p1) (.init w .i7) below s
  | .i7 => if w = 8 then advance (.init w .i9) below s else advance (.init w .i8) below s
  | .i8 => callFrom (.rawp s.cfg.cmdFsSwitch4 Config.tModesw .p1) (.init w .i9) below s
  | .i9 => advance (.init w .i10) below { s with width := if w = 8 then .eight else .four }
  | .i10 => callFrom (.xfer false (initFunctionSet s.cfg w) .x1) (.init w .i11) below s
  | .i11 => callFrom (.xfer false s.cfg.cmdDisplayOff .x1) (.init w .i12) below s
  | .i12 => callFrom (.xfer false s.cfg.cmdClear .x1) (.init w .i13) below s
  | .i13 => callFrom (.xfer false s.cfg.cmdEntryMode .x1) (.init w .i14) below s
  | .i14 => callFrom (.xfer false s.cfg.cmdDisplayOn .x1) (.init w .i15) below s
  | .i15 => advance (.init w .ret) below { s with sess := .ready }
  | .ret => returnWith .done below s

/-- One step of CLEAR (R110). -/
def clearStep (l : ClearLabel) (below : List Frame) (s : State) : Host.Outcome State Fault Refusal :=
  match l with
  | .c1 => if s.sess = .ready then advance (.clear .c2) below s else .refused .notReady
  | .c2 => callFrom (.xfer false s.cfg.cmdClear .x1) (.clear .ret) below s
  | .ret => returnWith .done below s

/-- One step of DISPLAY (R112). -/
def displayStep (l : DisplayLabel) (below : List Frame) (s : State) : Host.Outcome State Fault Refusal :=
  match l with
  | .s1 => if s.sess = .ready then advance (.display .s2) below s else .refused .notReady
  | .s2 => callFrom (.xfer false s.cfg.cmdClear .x1) (.display .s3) below s
  | .s3 => advance (.display .s4) below { s with cur := Config.line1Addr }
  | .s4 => advance (.display .s5) below { s with idx := 0 }
  | .s5 => if Config.maxIdx ≤ s.idx.toNat then returnWith .done below s else advance (.display .s6) below s
  | .s6 =>
    if s.idx.toNat < Config.maxIdx then advance (.display .s7) below (loadChar s)
    else .fault .textIndexOutOfRange
  | .s7 => if s.chr = s.cfg.term then returnWith .done below s else advance (.display .s8) below s
  | .s8 => advance (.display .s9) below (forceLine2 s)
  | .s9 =>
    if s.chr = Config.newline then advance (.display .s5) below (takeNewline s)
    else advance (.display .s10) below s
  | .s10 => callFrom (.xfer false (setDdramByte s.cfg s.cur) .x1) (.display .s11) below s
  | .s11 => callFrom (.xfer true s.chr .x1) (.display .s12) below s
  | .s12 => advance (.display .s13) below { s with idx := s.idx + 1 }
  | .s13 => advance (.display .s14) below { s with cur := s.cur + 1 }
  | .s14 => advance (.display .s5) below s

/-- One step of the sequencer: the step that the top frame of UPC names (R21). -/
def microStep (s : State) : Host.Outcome State Fault Refusal :=
  match s.upc with
  | [] => .fault .sequencerLost
  | .wri b l :: below => wriStep b l below s
  | .wrd b l :: below => wrdStep b l below s
  | .init w l :: below => initStep w l below s
  | .clear l :: below => clearStep l below s
  | .display l :: below => displayStep l below s
  | .xfer k b l :: below => xferStep k b l below s
  | .nibp v l :: below => nibpStep v l below s
  | .rawp v t l :: below => rawpStep v t l below s
  | .bfw l :: below => bfwStep l below s

/-- The first frame of a command: the procedure the host asks for, at its first step (R21). -/
def entryFrame : Instr → Frame
  | .wri b => .wri b .call
  | .wrd b => .wrd b .call
  | .init w => .init w .i1
  | .clear => .clear .c1
  | .display => .display .s1

/-- The command is accepted: SEQ is Running and UPC at the command's first step (R20). -/
def acceptCommand (i : Instr) (s : State) : State := suspendAt [entryFrame i] s

/-- `n` steps of the sequencer, ending early where the command has ended. -/
def microRun : Nat → State → Host.Outcome State Fault Refusal
  | 0, s => .next s
  | n + 1, s =>
    match s.seq with
    | .idle => .next s
    | .running =>
      match microStep s with
      | .next t => microRun n t
      | .fault r => .fault r
      | .refused r => .refused r

end Sys2Proof.Machine
end

