-- ==== Sys2Proof/Machine/Step.lean ====
section
/-! DEFINITION. One step of the machine (spec/10_state.md R20, R21). Idle, it takes the next act of the outside world: a
command word is decoded and the command runs (R57); another user of the ports may write them (spec/70_reset_and_hazards.md
R144); with nothing to take the block waits (R140). Running, it makes one step of the sequencer, and takes no command and
lets no other user in (spec/00_scope.md R5). A reset that comes next is taken at once, Running or not (R140). DESIGN CHOICE
(assumption 17): the spec does not say where in a command a reset may fall, nor at which label of a wait. Here an accepted
command runs whole, so in a run from Idle a reset falls before the command, after it, or, where the wait is left pending, at
step B7 itself and at no later label: a reset that is the next act is taken at once, and one behind another act is not
taken before the command has ended, so never if it hangs. -/

namespace Sys2Proof.Machine

def step (s : State) : Host.Outcome State Fault Refusal :=
  match s.host, s.seq with
  | .reset :: rest, _ => .next (resetEvent { s with host := rest })
  | _, .running => microStep s
  | [], .idle => .next s
  | .portWrite r v :: rest, .idle => .next (foreignWrite r v { s with host := rest })
  | .command w text :: rest, .idle =>
    match decode w with
    | .error e => .refused (.reservedCommand e)
    | .ok i => exec i (presentText text { s with host := rest })

/-- The state with the command word `w` the next act of the host and the block Idle, so that the next step decodes and
runs it. The block fetches nothing (R21, spec/20_memory.md R55): this stands for the host presenting a word, and a
program is the host's list of words (assumption 7). -/
def State.withFetchWord (s : State) (nbits w : Nat) : State :=
  { s with
    seq := .idle
    upc := []
    host := .command (BitVec.ofNat 16 (w % 2 ^ nbits)) none :: s.host }

end Sys2Proof.Machine
end

