-- ==== Sys2Proof/Machine/Assembler.lean ====
section
/-! DEFINITION. The assembler syntax of the spec (spec/30_encoding.md R70) and the pseudo-instructions (R72): a line of
text, what it names, and the acts of the host it stands for. The block does not see any of it. -/

namespace Sys2Proof.Machine

/-- One line of the assembler: a command, DISPLAY with its string, or a pseudo-instruction. -/
inductive AsmLine where
  | command (i : Instr)
  | displayText (text : List Byte)
  | wca (a : DdramAddr) (c : Byte)
  | goto (a : DdramAddr)
  | putc (c : Byte)
deriving DecidableEq, Repr

/-- The commands a line stands for (R70, R72): `WCA a, c` is the pair `WRI (CMD_SET_DDRAM | a)`, `WRD c`; the string
after DISPLAY stands for its bytes followed by TERM. -/
def assemble (c : Config) : AsmLine → List HostAct
  | .command i => [.command (encode i) none]
  | .displayText text => [.command (encode .display) (some (text ++ [c.term]))]
  | .wca a ch => [.command (encode (.wri (setDdramByte c a))) none, .command (encode (.wrd ch)) none]
  | .goto a => [.command (encode (.wri (setDdramByte c a))) none]
  | .putc ch => [.command (encode (.wrd ch)) none]

/-- The value of a decimal digit. -/
def decDigit (ch : Char) : Option Nat :=
  if '0'.toNat ≤ ch.toNat ∧ ch.toNat ≤ '9'.toNat then some (ch.toNat - '0'.toNat) else none

/-- The value of a hexadecimal digit. -/
def hexDigit (ch : Char) : Option Nat :=
  if 'a'.toNat ≤ ch.toNat ∧ ch.toNat ≤ 'f'.toNat then some (ch.toNat - 'a'.toNat + 10)
  else if 'A'.toNat ≤ ch.toNat ∧ ch.toNat ≤ 'F'.toNat then some (ch.toNat - 'A'.toNat + 10)
  else decDigit ch

/-- Digits from the left, with the value so far; the rest of the line after them. -/
def digits (digit : Char → Option Nat) (base : Nat) : Nat → List Char → Nat × List Char
  | acc, [] => (acc, [])
  | acc, ch :: cs =>
    match digit ch with
    | some d => digits digit base (acc * base + d) cs
    | none => (acc, ch :: cs)

/-- An operand: `0x` hexadecimal, decimal, or a character in single quotes standing for its byte value (R70). -/
def operand : List Char → Option (Nat × List Char)
  | '0' :: 'x' :: ch :: cs => (hexDigit ch).map fun d => digits hexDigit 16 d cs
  | '\'' :: ch :: '\'' :: cs => some (ch.toNat, cs)
  | ch :: cs => (decDigit ch).map fun d => digits decDigit 10 d cs
  | [] => none

/-- Spaces dropped from the left. -/
def skipSpaces (cs : List Char) : List Char := cs.dropWhile (· == ' ')

/-- The line ends here: nothing, or a comment. -/
def lineEnds (cs : List Char) : Bool :=
  match skipSpaces cs with
  | [] => true
  | ch :: _ => ch == ';'

/-- The bytes of a string up to its closing quote; inside it `\n` stands for the byte NL (R70). -/
def stringBytes : List Char → Option (List Byte × List Char)
  | [] => none
  | '"' :: cs => some ([], cs)
  | '\\' :: 'n' :: cs => (stringBytes cs).map fun r => (Config.newline :: r.1, r.2)
  | ch :: cs =>
    if ch.toNat < 256 then (stringBytes cs).map fun r => (BitVec.ofNat 8 ch.toNat :: r.1, r.2) else none

/-- A line with one operand below `bound`, and nothing after it. -/
def oneOperand (bound : Nat) (make : Nat → AsmLine) (cs : List Char) : Option AsmLine :=
  match operand (skipSpaces cs) with
  | some (n, rest) => if n < bound ∧ lineEnds rest then some (make n) else none
  | none => none

/-- A line with an address operand, a comma and a byte operand. -/
def twoOperands (make : Nat → Nat → AsmLine) (cs : List Char) : Option AsmLine :=
  match operand (skipSpaces cs) with
  | some (a, rest) =>
    match skipSpaces rest with
    | ',' :: rest => if a < 128 then oneOperand 256 (make a) rest else none
    | _ => none
  | none => none

/-- Read one line of the assembler (R70): a mnemonic in capitals, then its operand. -/
def parseLine (cs : List Char) : Option AsmLine :=
  match skipSpaces cs with
  | 'W' :: 'R' :: 'I' :: ' ' :: cs => oneOperand 256 (fun n => .command (.wri (BitVec.ofNat 8 n))) cs
  | 'W' :: 'R' :: 'D' :: ' ' :: cs => oneOperand 256 (fun n => .command (.wrd (BitVec.ofNat 8 n))) cs
  | 'I' :: 'N' :: 'I' :: 'T' :: ' ' :: cs => oneOperand 256 (fun n => .command (.init n)) cs
  | 'C' :: 'L' :: 'E' :: 'A' :: 'R' :: cs => if lineEnds cs then some (.command .clear) else none
  | 'D' :: 'I' :: 'S' :: 'P' :: 'L' :: 'A' :: 'Y' :: cs =>
    match skipSpaces cs with
    | '"' :: cs =>
      match stringBytes cs with
      | some (text, rest) => if lineEnds rest then some (.displayText text) else none
      | none => none
    | rest => if lineEnds rest then some (.command .display) else none
  | 'W' :: 'C' :: 'A' :: ' ' :: cs =>
    twoOperands (fun a n => .wca (BitVec.ofNat 7 a) (BitVec.ofNat 8 n)) cs
  | 'G' :: 'O' :: 'T' :: 'O' :: ' ' :: cs => oneOperand 128 (fun a => .goto (BitVec.ofNat 7 a)) cs
  | 'P' :: 'U' :: 'T' :: 'C' :: ' ' :: cs => oneOperand 256 (fun n => .putc (BitVec.ofNat 8 n)) cs
  | _ => none

end Sys2Proof.Machine
end

