-- ==== Sys2Proof/Machine/Observer.lean ====
section
/-! DEFINITION. The test harness the spec describes beside the block (spec/95_test_vectors.md section 1,
spec/92_eei_decisions.md D26): the reference observer, which reads strobes off a trace, and the reference mock of the
display. Neither is part of the block, and no step uses them. -/

namespace Sys2Proof.Machine

/-- OBSERVER (spec/00_scope.md R9 c): the edge of EN at which a strobe is recorded. -/
inductive Edge where
  | rise
  | fall
deriving DecidableEq, Repr

/-- The default of OBSERVER: "Rise or Fall, default Rise" (R9 c). -/
def observerDefault : Edge := .rise

/-- A recorded strobe: `I:vv`, `D:vv` or `rd`. -/
inductive Strobe where
  | instr (v : Byte)
  | data (v : Byte)
  | read
deriving DecidableEq, Repr

/-- What the observer keeps: the three lines and the last BusW value. -/
structure Observer where
  rs : Bool
  rw : Bool
  en : Bool
  bus : Byte
deriving DecidableEq, Repr

/-- The observer at the start of a trace: EN = 0. The other three are written before the first strobe. -/
def Observer.start : Observer := { rs := false, rw := false, en := false, bus := 0 }

/-- The strobe the observer's present picture stands for. -/
def Observer.strobe (o : Observer) : Strobe :=
  if o.rw then .read else if o.rs then .data o.bus else .instr o.bus

/-- What the observer records at a write of EN: a strobe at an edge of the chosen kind, nothing where EN keeps its
level. -/
def Observer.recorded (edge : Edge) (o : Observer) (b : Bool) : List Strobe :=
  match edge with
  | .rise => if b && !o.en then [o.strobe] else []
  | .fall => if !b && o.en then [o.strobe] else []

/-- The strobes of a trace, in order. -/
def observe (edge : Edge) : Observer → List Event → List Strobe
  | _, [] => []
  | o, .ctlW .rs b :: es => observe edge { o with rs := b } es
  | o, .ctlW .rw b :: es => observe edge { o with rw := b } es
  | o, .ctlW .en b :: es => o.recorded edge b ++ observe edge { o with en := b } es
  | o, .busW v :: es => observe edge { o with bus := v } es
  | o, .dirW _ _ :: es => observe edge o es
  | o, .busR _ :: es => observe edge o es
  | o, .dly _ :: es => observe edge o es

/-- The strobes of a whole trace, which starts with EN = 0; the edge is the parameter OBSERVER of R9 (c), with its
default. -/
def strobes (events : List Event) (edge : Edge := observerDefault) : List Strobe :=
  observe edge Observer.start events

/-- Two consecutive write strobes `x:h0`, `x:l0` of one four-bit transfer joined into `x:hl`. -/
def joinStrobes : List Strobe → List Strobe
  | .instr h :: .instr l :: r => .instr (joinNibbles h l) :: joinStrobes r
  | .data h :: .data l :: r => .data (joinNibbles h l) :: joinStrobes r
  | x :: r => x :: joinStrobes r
  | [] => []

/-- The reference mock of the display (general knowledge, not in source: spec/93_implementation_defined.md G7): the
cells it has been given, the latest first, and its address. -/
structure MockDisplay where
  cells : List (DdramAddr × Byte)
  addr : DdramAddr
deriving DecidableEq, Repr

/-- The byte the mock shows at an address, none where nothing was stored. -/
def MockDisplay.cell (d : MockDisplay) (a : DdramAddr) : Option Byte :=
  (d.cells.find? (fun c => c.1 == a)).map (·.2)

/-- What a strobe does to the mock: `I:01` empties it and sets the address to 0, an instruction with bit 7 set loads
the address, data is stored at the address; everything else is ignored. -/
def MockDisplay.take (d : MockDisplay) : Strobe → MockDisplay
  | .instr v =>
    if v = 0x01 then { cells := [], addr := 0 }
    else if v.getLsbD 7 then { d with addr := v.extractLsb' 0 7 }
    else d
  | .data v => { d with cells := (d.addr, v) :: d.cells }
  | .read => d

/-- The mock after strobes. -/
def MockDisplay.takeAll (d : MockDisplay) (strobes : List Strobe) : MockDisplay := strobes.foldl MockDisplay.take d

end Sys2Proof.Machine
end

