-- ==== Sys2Proof/Safety.lean ====
section
/-! DEFINITION. The terms claims are stated in: what the oracle's answers do to a busy-flag wait, the events of each
procedure, the state a procedure leaves, the cells a text fills, the total of the delays, and the two invariants of the
machine. None of it is used by `step`. -/

namespace Sys2Proof.Machine

/-! ## Busy-flag waits, by the listed answers (spec/41_busy_flag_monitor.md R86, spec/60_exceptions.md R124, R125) -/

/-- The number N of busy answers before the first that is not. -/
def busyCount (answers : List Byte) : Nat := (answers.takeWhile busyFlag).length

/-- POLL_CAP = c and the first c answers are all busy: the wait raises DeviceNotResponding. -/
def waitFaults (c : Config) (answers : List Byte) : Bool := capReached c (busyCount answers)

/-- An answer that is not busy comes before the cap cuts the wait: the wait returns. This is the premise that R124 and
spec/92_eei_decisions.md D36 put on the environment. -/
def waitReturns (c : Config) (answers : List Byte) : Bool :=
  !waitFaults c answers && answers.any (fun v => !busyFlag v)

/-- Every listed answer is busy and no cap cuts the wait: the wait is still on when the listed answers run out. -/
def waitPending (c : Config) (answers : List Byte) : Bool :=
  !waitFaults c answers && answers.all busyFlag

/-- The samples a wait that returns takes: the N busy ones and the first that is not. -/
def waitReads (answers : List Byte) : List Byte := answers.take (busyCount answers + 1)

/-- The answers left after a wait that returns. -/
def waitRest (answers : List Byte) : List Byte := answers.drop (busyCount answers + 1)

/-- `n` waits in a row return. -/
def waitsReturn (c : Config) : Nat → List Byte → Bool
  | 0, _ => true
  | n + 1, answers => waitReturns c answers && waitsReturn c n (waitRest answers)

/-- The answers left after `n` waits that return. -/
def restAfter : Nat → List Byte → List Byte
  | 0, answers => answers
  | n + 1, answers => restAfter n (waitRest answers)

/-! ## The events of each procedure -/

/-- The poll iterations with these samples (R91). -/
def pollEvents (samples : List Byte) : List Event :=
  samples.flatMap fun v => [.ctlW .en true, .busR v, .ctlW .en false]

/-- The events of B1 to B6, with the bus direction d at entry (R91). -/
def bfwEnterEvents (d : Byte) : List Event :=
  [.dirW .bp (d &&& 0x7F), .ctlW .rs false, .ctlW .rw true]

/-- The events of one BFW that returns, with directions (c, d) at entry (R91). -/
def bfwEvents (c d : Byte) (samples : List Byte) : List Event :=
  bfwEnterEvents d ++ pollEvents samples ++ [.dly 1, .dirW .cp c, .dirW .bp d]

/-- The write strobes of one transfer, from the opened ports to the call of BFW (spec/42_transfer_engine.md R103). -/
def strobeEvents (cfg : Config) (width : BusWidth) (kind : Bool) (b : Byte) : List Event :=
  match width with
  | .unset => []
  | .eight =>
    [.ctlW .en false, .busW b, .ctlW .rs kind, .ctlW .rw false, .ctlW .en true]
      ++ (if cfg.en8Release = .byEngine then [.ctlW .en false] else [])
  | .four =>
    [.ctlW .rs kind, .ctlW .rw false,
      .busW (b &&& 0xF0), .ctlW .en true, .dly 800, .ctlW .en false, .dly 800,
      .busW ((b <<< 4) &&& 0xF0), .ctlW .en true, .dly 800, .ctlW .en false, .dly 800]

/-- The events of one XFER up to its first poll (R103). -/
def xferOpenEvents (cfg : Config) (width : BusWidth) (kind : Bool) (b : Byte) : List Event :=
  [.dirW .cp 0xFF, .dirW .bp 0xFF] ++ strobeEvents cfg width kind b ++ bfwEnterEvents 0xFF

/-- The events of one XFER that ends Done, from directions (c, d) (R103). -/
def xferEvents (cfg : Config) (width : BusWidth) (kind : Bool) (b c d : Byte) (samples : List Byte) : List Event :=
  [.dirW .cp 0xFF, .dirW .bp 0xFF] ++ strobeEvents cfg width kind b ++ bfwEvents 0xFF 0xFF samples
    ++ [.dirW .cp c, .dirW .bp d]

/-- The events of one raw pulse from directions (c, d) (spec/43_session_commands.md R105). -/
def rawPulseEvents (v : Byte) (t : Nat) (c d : Byte) : List Event :=
  [.dirW .cp 0xFF, .dirW .bp 0xFF, .ctlW .en false, .busW v, .ctlW .rs false, .ctlW .rw false,
    .ctlW .en true, .ctlW .en false, .dly t, .dirW .cp c, .dirW .bp d]

/-- The events of transfers in a row, each a pair of kind and byte, with the oracle's answers split among them. -/
def transferEvents (cfg : Config) (width : BusWidth) (c d : Byte) : List (Bool × Byte) → List Byte → List Event
  | [], _ => []
  | (kind, b) :: rest, answers =>
    xferEvents cfg width kind b c d (waitReads answers) ++ transferEvents cfg width c d rest (waitRest answers)

/-- The sum of the delays among these events, in microseconds (spec/70_reset_and_hazards.md R163). -/
def totalDelay : List Event → Nat
  | [] => 0
  | .dly t :: es => t + totalDelay es
  | .dirW _ _ :: es => totalDelay es
  | .ctlW _ _ :: es => totalDelay es
  | .busW _ :: es => totalDelay es
  | .busR _ :: es => totalDelay es

/-- The values written to the bus output register among these events, in order. -/
def busWrites : List Event → List Byte
  | [] => []
  | .busW v :: es => v :: busWrites es
  | .dirW _ _ :: es => busWrites es
  | .ctlW _ _ :: es => busWrites es
  | .busR _ :: es => busWrites es
  | .dly _ :: es => busWrites es

/-- What is put on the bus and strobed before the first read cycle: the writes of the bus and the assertions of EN up to the
first CtlW(RW, 1), in order. -/
def writeStrobes (events : List Event) : List Event :=
  (events.takeWhile fun e => e != .ctlW .rw true).filter fun e =>
    match e with
    | .busW _ => true
    | .ctlW .en b => b
    | _ => false

/-- The last value written to the bus output register among these events. -/
def lastBusW : List Event → Option Byte
  | [] => none
  | .busW v :: es => (lastBusW es).or (some v)
  | .dirW _ _ :: es => lastBusW es
  | .ctlW _ _ :: es => lastBusW es
  | .busR _ :: es => lastBusW es
  | .dly _ :: es => lastBusW es

/-- The events that `t` has beyond those of `s`. -/
def newEvents (s t : State) : List Event := t.trace.drop s.trace.length

/-! ## The state a procedure leaves -/

/-- CP_OUT with the three control lines at these levels and its other five bits as they were (spec/10_state.md R24). -/
def withLines (c : Config) (v : Byte) (rs rw en : Bool) : Byte :=
  setBit (setBit (setBit v c.pins.rsBit rs) c.pins.rwBit rw) c.pins.enBit en

/-- The last value a transfer drives onto the bus (R34, R99). -/
def lastDriven (width : BusWidth) (b : Byte) : Byte :=
  match width with
  | .unset => b
  | .eight => b
  | .four => (b <<< 4) &&& 0xF0

/-- EN when BFW begins: 1 in eight-bit mode with EN8_RELEASE = ByMonitor (R89). -/
def enAtWait (c : Config) (width : BusWidth) : Bool :=
  decide (width = .eight) && decide (c.en8Release = .byMonitor)

/-- The state inside the busy-flag wait of XFER(kind, b), begun in `s`, when the samples taken so far are `samples`:
the ports are open, bus bit 7 is an input, RS = 0, RW = 1, and EN is 0 once a poll iteration has been made. -/
def inWait (kind : Bool) (b : Byte) (samples : List Byte) (s : State) : State :=
  { s with
    dreg := b
    kind := kind
    sv1Cp := s.cpDir
    sv1Bp := s.bpDir
    sv2Cp := 0xFF
    sv2Bp := 0xFF
    cpDir := 0xFF
    bpDir := 0x7F
    bpOut := lastDriven s.width b
    cpOut := withLines s.cfg s.cpOut false true (samples.isEmpty && enAtWait s.cfg s.width)
    busyf := (samples.getLast?.map busyFlag).getD s.busyf
    npoll := samples.length
    answers := s.answers.drop samples.length
    reads := s.reads + samples.length
    trace := s.trace ++ xferOpenEvents s.cfg s.width kind b ++ pollEvents samples }

/-- The state after XFER(kind, b) Done from `s` (R34, R99): every field. -/
def afterTransfer (kind : Bool) (b : Byte) (s : State) : State :=
  { s with
    dreg := b
    kind := kind
    sv1Cp := s.cpDir
    sv1Bp := s.bpDir
    sv2Cp := 0xFF
    sv2Bp := 0xFF
    bpOut := lastDriven s.width b
    cpOut := withLines s.cfg s.cpOut false true false
    busyf := false
    npoll := busyCount s.answers + 1
    answers := waitRest s.answers
    reads := s.reads + (busyCount s.answers + 1)
    trace := s.trace ++ xferEvents s.cfg s.width kind b s.cpDir s.bpDir (waitReads s.answers) }

/-- The state after transfers in a row, each Done. -/
def afterTransfers : List (Bool × Byte) → State → State
  | [], s => s
  | (kind, b) :: rest, s => afterTransfers rest (afterTransfer kind b s)

/-- The state after RAWP(v, t) from `s` (R34): every field. -/
def afterRawPulse (v : Byte) (t : Nat) (s : State) : State :=
  { s with
    sv1Cp := s.cpDir
    sv1Bp := s.bpDir
    bpOut := v
    cpOut := withLines s.cfg s.cpOut false false false
    trace := s.trace ++ rawPulseEvents v t s.cpDir s.bpDir }

/-- The state after step I9 of INIT w from `s`: SESS Initializing, the power delay, the raw pulses and WIDTH
(spec/43_session_commands.md R107). -/
def afterInitPulses (w : Nat) (width : BusWidth) (s : State) : State :=
  let s := { s with sess := .initializing, trace := s.trace ++ [.dly 45000] }
  let s := afterRawPulse s.cfg.cmdFsReset 4100 s
  let s := afterRawPulse s.cfg.cmdFsReset 100 s
  let s := afterRawPulse s.cfg.cmdFsReset 100 s
  let s := if w = 8 then s else afterRawPulse s.cfg.cmdFsSwitch4 600 s
  { s with width := width }

/-- The five transfers of INIT w, in order (R107 steps I10 to I14). -/
def initBytes (c : Config) (w : Nat) : List (Bool × Byte) :=
  [(false, initFunctionSet c w), (false, c.cmdDisplayOff), (false, c.cmdClear), (false, c.cmdEntryMode),
    (false, c.cmdDisplayOn)]

/-- The state after INIT w Done from `s`. -/
def afterInit (w : Nat) (width : BusWidth) (s : State) : State :=
  { afterTransfers (initBytes s.cfg w) (afterInitPulses w width s) with sess := .ready }

/-! ## The text walk of DISPLAY, as a function of the text alone (R112 to R119) -/

/-- The cells that the positions i, i+1, …, i+n-1 of a text fill, with the cursor at `a`: each a pair of DDRAM
address and character, in the order in which they are written. -/
def textCells (term : Byte) (text : Memory) : Nat → Nat → DdramAddr → List (DdramAddr × Byte)
  | 0, _, _ => []
  | n + 1, i, a =>
    let ch := Memory.read text i
    if ch = term then []
    else
      let a := if i = Config.lineLen then Config.line2Addr else a
      if ch = Config.newline then textCells term text n (i + 1) Config.line2Addr
      else (a, ch) :: textCells term text n (i + 1) (a + 1)

/-- Where the walk stops: the source index and the cursor. -/
def walkStop (term : Byte) (text : Memory) : Nat → Nat → DdramAddr → Nat × DdramAddr
  | 0, i, a => (i, a)
  | n + 1, i, a =>
    let ch := Memory.read text i
    if ch = term then (i, a)
    else
      let a := if i = Config.lineLen then Config.line2Addr else a
      if ch = Config.newline then walkStop term text n (i + 1) Config.line2Addr
      else walkStop term text n (i + 1) (a + 1)

/-- The cells DISPLAY fills. -/
def displayCells (term : Byte) (text : Memory) : List (DdramAddr × Byte) := textCells term text 32 0 0x00

/-- The text byte at a position is a character: neither the terminator nor the newline marker. -/
def isChar (term : Byte) (text : Memory) (i : Nat) : Prop :=
  Memory.read text i ≠ term ∧ Memory.read text i ≠ Config.newline

/-- The transfers that write cells: for each a set-address instruction, then the character (R114). -/
def cellTransfers (c : Config) (cells : List (DdramAddr × Byte)) : List (Bool × Byte) :=
  cells.flatMap fun cell => [(false, setDdramByte c cell.1), (true, cell.2)]

/-- The transfers of DISPLAY: the clear, then the cells of the text (R111). -/
def displayTransfers (c : Config) (text : Memory) : List (Bool × Byte) :=
  (false, c.cmdClear) :: cellTransfers c (displayCells c.term text)

/-- The events of a DISPLAY from `s` that fills these cells: the clear, then for each cell the set-address and the data
transfer, with the oracle's answers split among them. -/
def displayEvents (s : State) (cells : List (DdramAddr × Byte)) : List Event :=
  transferEvents s.cfg s.width s.cpDir s.bpDir ((false, s.cfg.cmdClear) :: cellTransfers s.cfg cells) s.answers

/-- The state after DISPLAY Done from `s`: the transfers made, IDX and CUR where the walk stops, and CHR the last
text byte read. -/
def afterDisplay (s : State) : State :=
  let stop := walkStop s.cfg.term s.txt 32 0 0x00
  { afterTransfers (displayTransfers s.cfg s.txt) s with
    idx := BitVec.ofNat 6 stop.1
    cur := stop.2
    chr := Memory.read s.txt (min stop.1 31) }

/-! ## What a command leaves alone -/

/-- The five bits of CP_OUT that are no control line are the same (spec/10_state.md R24). -/
def sameForeignBits (s t : State) : Prop :=
  ∀ k : Fin 8, k ≠ s.cfg.pins.rsBit → k ≠ s.cfg.pins.rwBit → k ≠ s.cfg.pins.enBit →
    getBit t.cpOut k = getBit s.cpOut k

/-- Every byte of the TXT space reads as before. -/
def sameText (s t : State) : Prop := ∀ i, Memory.read t.txt i = Memory.read s.txt i

/-! ## What an idle block looks like -/

/-- The host obligation of spec/70_reset_and_hazards.md R143: EN is 0. -/
def enLow (s : State) : Bool := !line s .en

/-! ## The invariant of the machine -/

/-- Both ports are fully outputs. -/
def portsOut (s : State) : Bool := s.cpDir == 0xFF && s.bpDir == 0xFF

/-- WIDTH has been written. -/
def widthSet (s : State) : Bool := s.width != .unset

/-- Where CUR and IDX can stand at the loop test S5 (spec/43_session_commands.md R119): on line 1 CUR is at most IDX and
IDX at most 16; on line 2 CUR is at most 0x40 plus the positions since the last forcing. -/
def cursorAtTest (s : State) : Bool :=
  decide (s.idx.toNat ≤ 32) &&
    (decide (s.cur.toNat ≤ s.idx.toNat ∧ s.idx.toNat ≤ 16) ||
      decide (0x40 ≤ s.cur.toNat ∧
        s.cur.toNat ≤ 0x40 + (if s.idx.toNat ≤ 16 then s.idx.toNat else s.idx.toNat - 16)))

/-- Where CUR and IDX can stand when a character is written, steps S9 to S12: CUR is one of the 32 visible cells. -/
def cursorAtWrite (s : State) : Bool :=
  decide (s.idx.toNat < 32) &&
    (decide (s.cur.toNat ≤ s.idx.toNat ∧ s.idx.toNat < 16) ||
      decide (0x40 ≤ s.cur.toNat ∧
        s.cur.toNat ≤ 0x40 + (if s.idx.toNat < 16 then s.idx.toNat else s.idx.toNat - 16)))

/-- A frame that waits for a call of XFER to return, and what holds of the state meanwhile. -/
def callerOk (s : State) : Frame → Bool
  | .wri _ .ret => true
  | .wrd _ .ret => true
  | .clear .ret => widthSet s && s.sess == .ready
  | .init w l =>
    (w == 4 || w == 8) && widthSet s && s.sess == .initializing
      && (l == .i11 || l == .i12 || l == .i13 || l == .i14 || l == .i15)
  | .display l =>
    widthSet s && s.sess == .ready
      && (l == .s3 || ((l == .s11 || l == .s12) && cursorAtWrite s))
  | _ => false

/-- What holds while a command runs a step of its own. -/
def commandOk (s : State) : Frame → Bool
  | .wri _ _ => true
  | .wrd _ _ => true
  | .init w l =>
    match l with
    | .i1 => true
    | .i2 => w == 4 || w == 8
    | .i3 | .i4 | .i5 | .i6 | .i7 | .i8 | .i9 => (w == 4 || w == 8) && s.sess == .initializing
    | .i10 | .i11 | .i12 | .i13 | .i14 | .i15 => (w == 4 || w == 8) && widthSet s && s.sess == .initializing
    | .ret => widthSet s && s.sess == .ready
  | .clear l =>
    match l with
    | .c1 => true
    | .c2 | .ret => widthSet s && s.sess == .ready
  | .display l =>
    match l with
    | .s1 => true
    | .s2 | .s3 => widthSet s && s.sess == .ready
    | .s4 => widthSet s && s.sess == .ready && s.cur == 0
    | .s5 => widthSet s && s.sess == .ready && cursorAtTest s
    | .s6 | .s7 | .s8 => widthSet s && s.sess == .ready && cursorAtTest s && decide (s.idx.toNat < 32)
    | .s9 | .s10 | .s11 | .s12 => widthSet s && s.sess == .ready && cursorAtWrite s
    | .s13 => widthSet s && s.sess == .ready && decide (1 ≤ s.idx.toNat)
        && cursorAtWrite { s with idx := s.idx - 1 }
    | .s14 => widthSet s && s.sess == .ready && cursorAtTest s
  | _ => false

/-- The arbiter's discipline inside XFER (spec/40_pin_interface.md R83): CP_DIR is 0xFF before the first control
write and BP_DIR before the first bus write. -/
def xferOk (s : State) : XferLabel → Bool
  | .x1 | .x2 | .x3 | .x4 => true
  | .x5 => widthSet s
  | .x6 => widthSet s && s.cpDir == 0xFF
  | .x7 | .x8 | .e1 | .e2 | .e3 | .e4 | .e5 | .e6 | .e7 | .f1 | .f2 | .f3 | .f4 | .f5 => widthSet s && portsOut s
  | .x9 | .ret => widthSet s

/-- The same inside RAWP. -/
def rawpOk (s : State) : RawpLabel → Bool
  | .p1 | .p2 | .p3 | .p13 | .ret => true
  | .p4 => s.cpDir == 0xFF
  | .p5 | .p6 | .p7 | .p8 | .p9 | .p10 | .p11 | .p12 => portsOut s

/-- The same inside BFW, called from XFER (R83, R89): bus bit 7 is an input from B3 to B14, the rest of both ports
stays output. -/
def bfwOk (s : State) : BfwLabel → Bool
  | .b1 => portsOut s
  | .b2 => portsOut s && s.sv2Cp == 0xFF
  | .b3 => portsOut s && s.sv2Cp == 0xFF && s.sv2Bp == 0xFF
  | .b4 | .b5 | .b6 | .b7 | .b8 | .b9 | .b10 | .b11 | .b12 | .b13 | .b14 =>
    s.cpDir == 0xFF && s.bpDir == 0x7F && s.sv2Cp == 0xFF && s.sv2Bp == 0xFF
  | .ret => portsOut s

/-- The frames of UPC nest as spec/10_state.md R21 says, at most three deep, and what their labels promise of the
state holds. -/
def stackOk (s : State) : Bool :=
  match s.upc with
  | [] => true
  | [f] => commandOk s f
  | [.xfer _ _ l, f] => callerOk s f && xferOk s l
  | [.rawp _ _ l, .init w il] =>
    (w == 4 || w == 8) && s.sess == .initializing
      && (il == .i5 || il == .i6 || il == .i7 || il == .i9) && rawpOk s l
  | [.nibp _ _, .xfer _ _ l, f] => callerOk s f && widthSet s && portsOut s && (l == .f4 || l == .f5)
  | [.bfw l, .xfer _ _ .x8, f] => callerOk s f && widthSet s && bfwOk s l
  | _ => false

/-- The invariant: the TXT space is in canonical form; SEQ is Idle exactly when UPC is empty (R20, R21); a Ready
session has a width (spec/60_exceptions.md R131); ERR_DNR is 0 with POLL_CAP none (R31); IDX is at most 32 (R19); and
the stack of frames is sound. -/
structure Inv (s : State) : Prop where
  txt_wf : Memory.wf s.txt = true
  idle_iff_empty : s.seq = .idle ↔ s.upc = []
  ready_has_width : s.sess = .ready → s.width ≠ .unset
  no_error_without_cap : s.cfg.pollCap = none → s.errDnr = false
  idx_le : s.idx.toNat ≤ 32
  stack : stackOk s = true

/-! ## The control lines while a command runs (spec/40_pin_interface.md R83 A4) -/

/-- RW and EN are both 1 only while bus bit 7 is an input. -/
def readKeepsBit7 (s : State) : Bool := !(line s .rw && line s .en) || !s.bpDir.getLsbD 7

/-- What the label of the top frame promises of RW and EN. -/
def linesAt (s : State) : Frame → Bool
  | .wri _ _ => enLow s
  | .wrd _ _ => enLow s
  | .init _ _ => enLow s
  | .clear _ => enLow s
  | .display _ => enLow s
  | .xfer _ _ l =>
    match l with
    | .x1 | .x2 | .x3 | .x4 | .x5 | .x6 | .x7 | .x8 | .x9 | .ret => enLow s
    | .e1 | .e2 | .e3 | .e4 | .f1 | .f2 => enLow s
    | .e5 | .f3 | .f4 | .f5 => enLow s && !line s .rw
    | .e6 | .e7 => !line s .rw
  | .nibp _ l =>
    match l with
    | .n1 | .n2 | .n5 | .ret => enLow s && !line s .rw
    | .n3 | .n4 => !line s .rw
  | .rawp _ _ l =>
    match l with
    | .p1 | .p2 | .p3 | .p4 | .p5 | .p6 | .p7 | .p8 => enLow s
    | .p9 | .p10 => !line s .rw
    | .p11 | .p12 | .p13 | .ret => enLow s
  | .bfw l =>
    match l with
    | .b1 | .b2 | .b3 => !line s .rw
    | .b4 | .b5 | .b6 | .b7 | .b8 | .b9 => !s.bpDir.getLsbD 7
    | .b10 | .b11 => !s.bpDir.getLsbD 7 && enLow s
    | .b12 | .b13 | .b14 | .ret => enLow s

/-- The lines are as the step about to run promises, and EN is 0 when no command runs. -/
def LinesOk (s : State) : Prop :=
  match s.upc with
  | [] => enLow s = true
  | f :: _ => linesAt s f = true

end Sys2Proof.Machine
end

