-- ==== Sys2Proof/Certificates/Slice0/Obligations.lean ====
section
/-! DEFINITION. The statements about the model, each a proposition without a proof. OBLIGATIONS.json says for each what
it claims and which rules of spec/ it rests on. A docstring names the rules a statement is about; where such a rule is
marked in the spec as its own choice (`[decision: …]`) or its own inference (`[derived: …]`), and where the model chose
(an assumption of notes/assumptions/), the statement is `derived` and its docstring says so. The order of two steps that
the source names together (control port before bus port, RS before RW) is decision D8 throughout. -/

open Sys2Proof Sys2Proof.Machine

/-! ## The command word -/

/-- Words written out from the table of R59 and the vectors of spec/95_test_vectors.md 3.1. -/
def Obligations.SpecWordsDecode : Prop :=
  decode 0x0101 = .ok (.wri 0x01) ∧ decode 0x01FF = .ok (.wri 0xFF) ∧ decode 0x0241 = .ok (.wrd 0x41) ∧
  decode 0x0408 = .ok (.init 8) ∧ decode 0x0404 = .ok (.init 4) ∧ decode 0x04FF = .ok (.init 255) ∧
  decode 0x0500 = .ok .clear ∧ decode 0x0600 = .ok .display ∧
  decode 0x0501 = .error .operandNotZero ∧ decode 0x0601 = .error .operandNotZero ∧
  decode 0x0000 = .error .reservedOpcode ∧ decode 0x0300 = .error .reservedOpcode ∧
  decode 0x0F00 = .error .reservedOpcode ∧ decode 0x1101 = .error .zeroFieldNotZero ∧
  decode 0xFFFF = .error .zeroFieldNotZero

/-- Decoding the word of a well-formed command gives the command, with every operand at every value. -/
def Obligations.DecodeInvertsEncode : Prop :=
  ∀ i : Instr, i.wf = true → decode (encode i) = .ok i

/-- A word that decodes is the word of the command it decodes to, and the command is well formed. -/
def Obligations.EncodeInvertsDecode : Prop :=
  ∀ (w : CmdWord) (i : Instr), decode w = .ok i → encode i = w ∧ i.wf = true

/-- The rows of the opcode map (R59) that a word belongs to are the one of the command it decodes to, and none where
it is rejected. -/
def Obligations.DecodeAgreesWithOpcodeMap : Prop :=
  ∀ w : CmdWord,
    ((opTable.filter fun r => r.holds w).map fun r => r.mnemonic) =
      match decode w with
      | .ok i => [mnemonicOf i]
      | .error _ => []

/-- R66: exactly the reserved words are refused as such. The spec's own choice: decision D3; that the refusal ends the run is
assumption 13. -/
def Obligations.ReservedWordsAreRefused : Prop :=
  ∀ (s : State) (w : CmdWord) (text : Option (List Byte)) (rest : List HostAct),
    s.seq = .idle → s.host = .command w text :: rest →
      ((∃ e, step s = .refused (.reservedCommand e)) ↔
        (w.extractLsb' 12 4 ≠ 0 ∨
          w.extractLsb' 8 4 ∈ [0x0, 0x3, 0x7, 0x8, 0x9, 0xA, 0xB, 0xC, 0xD, 0xE, 0xF] ∨
          (w.extractLsb' 8 4 ∈ [0x5, 0x6] ∧ w.extractLsb' 0 8 ≠ 0)))

/-! ## One step of the machine -/

/-- An idle block whose next act of the host is a command word that decodes runs that command: `step` is `exec` on the
state with the act taken and the text, where one comes with it, in TXT. Three conventions of the model stand in it, which
the spec does not give: the host's words come from the list `host`, and a word with no text leaves TXT as it is
(assumption 7); `step` runs an accepted command whole (assumption 9); so no reset falls inside what `exec` runs
(assumption 17). -/
def Obligations.StepRunsDecodedCommand : Prop :=
  ∀ (s : State) (w : CmdWord) (text : Option (List Byte)) (rest : List HostAct) (i : Instr),
    s.seq = .idle → s.host = .command w text :: rest → decode w = .ok i →
      step s = exec i (presentText text { s with host := rest })

/-- What a step does when it takes no command: with nothing to take the idle block waits, a running block makes one step
of the sequencer, and another user of the ports writes the register it names and nothing else. That other users act only
between commands is the model's convention: assumption 8; that the acts of the outside world come from the list `host`, and
that a reset at its head stands before a step of the sequencer: assumptions 7 and 17. -/
def Obligations.StepWithoutCommand : Prop :=
  (∀ s : State, s.seq = .idle → s.host = [] → step s = .next s) ∧
  (∀ s : State, s.seq = .running → s.host.head? ≠ some .reset → step s = microStep s) ∧
  (∀ (s : State) (v : Byte) (rest : List HostAct), s.seq = .idle →
    (s.host = .portWrite .cpOut v :: rest → step s = .next { s with host := rest, cpOut := v }) ∧
    (s.host = .portWrite .cpDir v :: rest → step s = .next { s with host := rest, cpDir := v }) ∧
    (s.host = .portWrite .bpOut v :: rest → step s = .next { s with host := rest, bpOut := v }) ∧
    (s.host = .portWrite .bpDir v :: rest → step s = .next { s with host := rest, bpDir := v }))

/-- R140: a reset ends any command, also one that hangs; it emits no event and writes no port register. The spec's own
choice: decision D24. That a reset which is the next act is taken by the next step, at whatever label the block stands, is the
model's (assumption 17, unsafe: the spec does not say where in a command a reset may fall), and so is that the port
registers keep their values (assumption 6). -/
def Obligations.ResetEndsAnyCommand : Prop :=
  ∀ (s : State) (rest : List HostAct), s.host = .reset :: rest →
    ∃ t, step s = .next t ∧ t.sess = .uninitialized ∧ t.width = .unset ∧ t.seq = .idle ∧ t.upc = [] ∧
      t.errDnr = false ∧ t.trace = s.trace ∧ t.cpOut = s.cpOut ∧ t.cpDir = s.cpDir ∧ t.bpOut = s.bpOut ∧
      t.bpDir = s.bpDir ∧ t.cfg = s.cfg ∧ t.host = rest

/-- R33: the reset values the spec gives (decisions D22 to D24), and nothing done yet. That nothing is pending from the host,
so that a step changes nothing, is the model's: assumption 7. -/
def Obligations.ResetStateIsIdle : Prop :=
  State.reset.sess = .uninitialized ∧ State.reset.width = .unset ∧ State.reset.seq = .idle ∧
  State.reset.upc = [] ∧ State.reset.errDnr = false ∧ State.reset.trace = [] ∧ step State.reset = .next State.reset

/-! ## The micro-operations -/

/-- R76: setDirection gives each pin of the mask the direction asked for, leaves the others, touches nothing but the
direction register, and emits DirW with its new value. Only three uses of it occur: a step of the sequencer that emits one
DirW is one of them, or loads a direction register from a save slot. -/
def Obligations.SetDirectionChangesMaskedPins : Prop :=
  (∀ (mask : Byte) (asOutput : Bool) (s : State),
    (∀ k : Fin 8, getBit (setDirection .cp mask asOutput s).cpDir k =
      if getBit mask k then asOutput else getBit s.cpDir k) ∧
    (∀ k : Fin 8, getBit (setDirection .bp mask asOutput s).bpDir k =
      if getBit mask k then asOutput else getBit s.bpDir k) ∧
    setDirection .cp mask asOutput s =
      { s with
        cpDir := (setDirection .cp mask asOutput s).cpDir
        trace := s.trace ++ [.dirW .cp (setDirection .cp mask asOutput s).cpDir] } ∧
    setDirection .bp mask asOutput s =
      { s with
        bpDir := (setDirection .bp mask asOutput s).bpDir
        trace := s.trace ++ [.dirW .bp (setDirection .bp mask asOutput s).bpDir] }) ∧
  (∀ (s t : State) (p : Port) (v : Byte), microStep s = .next t → newEvents s t = [.dirW p v] →
    ∃ upc, t = { setDirection .cp 0xFF true s with upc := upc } ∨
      t = { setDirection .bp 0xFF true s with upc := upc } ∨
      t = { setDirection .bp 0x80 false s with upc := upc } ∨
      t = { loadDirection .cp s.sv1Cp s with upc := upc } ∨ t = { loadDirection .bp s.sv1Bp s with upc := upc } ∨
      t = { loadDirection .cp s.sv2Cp s with upc := upc } ∨ t = { loadDirection .bp s.sv2Bp s with upc := upc })

/-- R77: setControl sets the level of one line and of no other, leaves the other seven bits of CP_OUT and every other
register, and emits CtlW. -/
def Obligations.SetControlWritesOneLine : Prop :=
  ∀ (l : Line) (b : Bool) (s : State),
    line (setControl l b s) l = b ∧
    (∀ k : Fin 8, k ≠ linePos s.cfg l → getBit (setControl l b s).cpOut k = getBit s.cpOut k) ∧
    (∀ m : Line, m ≠ l → line (setControl l b s) m = line s m) ∧
    setControl l b s = { s with cpOut := (setControl l b s).cpOut, trace := s.trace ++ [.ctlW l b] }

/-- R78 to R81: what driveBus, readBus, loadDirection and delay change, and what each emits. A read takes the
oracle's next answer where one is listed, a free value where none is (assumption 3), and changes no register of the
block. -/
def Obligations.BusReadWriteAndDelay : Prop :=
  (∀ (v : Byte) (s : State), driveBus v s = { s with bpOut := v, trace := s.trace ++ [.busW v] }) ∧
  (∀ (v : Byte) (rest : List Byte) (s : State), s.answers = v :: rest →
    readBus s = (v, { s with answers := rest, reads := s.reads + 1, trace := s.trace ++ [.busR v] })) ∧
  (∀ s : State, s.answers = [] →
    readBus s = (Config.freeBusByte s.reads,
      { s with reads := s.reads + 1, trace := s.trace ++ [.busR (Config.freeBusByte s.reads)] })) ∧
  (∀ (v : Byte) (s : State),
    loadDirection .cp v s = { s with cpDir := v, trace := s.trace ++ [.dirW .cp v] } ∧
    loadDirection .bp v s = { s with bpDir := v, trace := s.trace ++ [.dirW .bp v] }) ∧
  (∀ (t : Nat) (s : State), delay t s = { s with trace := s.trace ++ [.dly t] })

/-! ## The Busy-Flag Monitor, step by step -/

/-- R86, R91: the sequencer at step B1, called from a frame below, with the oracle busy N times and then not: after
10 + 5 (N + 1) steps BFW has returned, having polled exactly N + 1 times, with the events of R91; RS = 0, RW = 1, EN = 0,
directions as found, BUSYF = 0, NPOLL = N + 1, and nothing else changed. -/
def Obligations.BfwPollsUntilReady : Prop :=
  ∀ (s : State) (caller : Frame) (below : List Frame),
    s.seq = .running → s.upc = .bfw .b1 :: caller :: below → waitReturns s.cfg s.answers = true →
      microRun (10 + 5 * (busyCount s.answers + 1)) s =
        .next { s with
          upc := caller :: below
          sv2Cp := s.cpDir
          sv2Bp := s.bpDir
          cpOut := withLines s.cfg s.cpOut false true false
          busyf := false
          npoll := busyCount s.answers + 1
          answers := s.answers.drop (busyCount s.answers + 1)
          reads := s.reads + (busyCount s.answers + 1)
          trace := s.trace ++ bfwEvents s.cpDir s.bpDir (s.answers.take (busyCount s.answers + 1)) }

/-- R87: with POLL_CAP none, no number of busy answers ends the loop. From step B7, k busy answers take 5 k steps of the
machine and leave it at step B7, Running, with the directions as they were and k times the triple CtlW(EN,1), BusR(v),
CtlW(EN,0) emitted. -/
def Obligations.BusyDisplayKeepsSpinning : Prop :=
  ∀ (s : State) (below : List Frame) (busy rest : List Byte),
    s.seq = .running → s.upc = .bfw .b7 :: below → s.cfg.pollCap = none → s.host.head? ≠ some .reset →
    readBusValid s = true → s.answers = busy ++ rest → busy.all busyFlag = true →
      ∃ t, Host.Core.run Sys2Proof.core (5 * busy.length) s = .next t ∧
        t.seq = .running ∧ t.upc = .bfw .b7 :: below ∧ t.cpDir = s.cpDir ∧ t.bpDir = s.bpDir ∧
        t.answers = rest ∧ t.npoll = s.npoll + busy.length ∧ t.trace = s.trace ++ pollEvents busy

/-! ## The Transfer Engine: WRI and WRD -/

/-- R92 to R97, R103: WRI and WRD with a width, when the display becomes ready before any cap cuts the wait, answer
the state after one XFER, Done. -/
def Obligations.EngineCommandsComplete : Prop :=
  ∀ (b : Byte) (s : State), s.width ≠ .unset → waitReturns s.cfg s.answers = true →
    exec (.wri b) s = .next (endCommand .done (afterTransfer false b s)) ∧
    exec (.wrd b) s = .next (endCommand .done (afterTransfer true b s))

/-- R103: the event list of one XFER from directions (c, d), for both widths and both values of EN8_RELEASE, with the
number of events. -/
def Obligations.TransferEventList : Prop :=
  ∀ (callers : List Frame) (k : Bool) (b : Byte) (s t : State), xfer callers k b s = .done t →
    (s.width = .eight → s.cfg.en8Release = .byMonitor →
      t.trace = s.trace ++
        ([.dirW .cp 0xFF, .dirW .bp 0xFF, .ctlW .en false, .busW b, .ctlW .rs k, .ctlW .rw false, .ctlW .en true]
          ++ bfwEvents 0xFF 0xFF (waitReads s.answers) ++ [.dirW .cp s.cpDir, .dirW .bp s.bpDir]) ∧
      t.trace.length = s.trace.length + (15 + 3 * (busyCount s.answers + 1))) ∧
    (s.width = .eight → s.cfg.en8Release = .byEngine →
      t.trace = s.trace ++
        ([.dirW .cp 0xFF, .dirW .bp 0xFF, .ctlW .en false, .busW b, .ctlW .rs k, .ctlW .rw false, .ctlW .en true,
            .ctlW .en false]
          ++ bfwEvents 0xFF 0xFF (waitReads s.answers) ++ [.dirW .cp s.cpDir, .dirW .bp s.bpDir]) ∧
      t.trace.length = s.trace.length + (16 + 3 * (busyCount s.answers + 1))) ∧
    (s.width = .four →
      t.trace = s.trace ++
        ([.dirW .cp 0xFF, .dirW .bp 0xFF, .ctlW .rs k, .ctlW .rw false,
            .busW (b &&& 0xF0), .ctlW .en true, .dly 800, .ctlW .en false, .dly 800,
            .busW ((b <<< 4) &&& 0xF0), .ctlW .en true, .dly 800, .ctlW .en false, .dly 800]
          ++ bfwEvents 0xFF 0xFF (waitReads s.answers) ++ [.dirW .cp s.cpDir, .dirW .bp s.bpDir]) ∧
      t.trace.length = s.trace.length + (22 + 3 * (busyCount s.answers + 1)))

/-- R101, R127: with WIDTH Unset, WRI and WRD are refused, and only then. The spec's own choice: decision D22. -/
def Obligations.EngineCommandsNeedWidth : Prop :=
  ∀ (b : Byte) (s : State),
    ((∃ r, exec (.wri b) s = .refused r) ↔ s.width = .unset) ∧
    ((∃ r, exec (.wrd b) s = .refused r) ↔ s.width = .unset) ∧
    (s.width = .unset →
      exec (.wri b) s = .refused .useBeforeInit ∧ exec (.wrd b) s = .refused .useBeforeInit)

/-- R125, R132: with POLL_CAP = c and the first c answers busy, WRI and WRD take the fault after exactly c polls:
both directions as before the command, ERR_DNR = 1, SEQ Idle, no margin waited. The spec's own choice: decision D23. -/
def Obligations.EngineCommandsFaultAtCap : Prop :=
  ∀ (b : Byte) (s : State) (c : { c : Nat // 0 < c }),
    s.width ≠ .unset → s.cfg.pollCap = some c → c.val ≤ busyCount s.answers →
      ∀ k : Bool,
        exec (if k then .wrd b else .wri b) s = .next { s with
          dreg := b
          kind := k
          sv1Cp := s.cpDir
          sv1Bp := s.bpDir
          sv2Cp := 0xFF
          sv2Bp := 0xFF
          bpOut := lastDriven s.width b
          cpOut := withLines s.cfg s.cpOut false true false
          busyf := true
          npoll := c.val
          errDnr := true
          seq := .idle
          upc := []
          outcome := some .deviceNotResponding
          answers := s.answers.drop c.val
          reads := s.reads + c.val
          trace := s.trace ++ xferOpenEvents s.cfg s.width k b ++ pollEvents (s.answers.take c.val) ++
            [.dirW .cp 0xFF, .dirW .bp 0xFF, .dirW .cp s.cpDir, .dirW .bp s.bpDir] }

/-- R87, R124: with every listed answer busy and no cap reached, WRI and WRD have not returned when the answers run
out: SEQ is Running at step B7, CP_DIR = 0xFF and BP_DIR = 0x7F, RS = 0, RW = 1, and no restoring event has been
emitted. That `exec` stops there, and `step` goes on label by label, is the model's convention: assumption 9. -/
def Obligations.EngineCommandsWaitWhileBusy : Prop :=
  ∀ (b : Byte) (s : State), s.width ≠ .unset → waitPending s.cfg s.answers = true →
    ∀ k : Bool,
      ∃ t, exec (if k then .wrd b else .wri b) s = .next t ∧
        t.seq = .running ∧
        t.upc = [.bfw .b7, .xfer k b .x8, if k then .wrd b .ret else .wri b .ret] ∧
        t.cpDir = 0xFF ∧ t.bpDir = 0x7F ∧ line t .rs = false ∧ line t .rw = true ∧
        t.npoll = s.answers.length ∧ t.answers = [] ∧
        t.trace = s.trace ++ xferOpenEvents s.cfg s.width k b ++ pollEvents s.answers

/-- The frame of WRI, WRD and CLEAR, whatever they come to: WIDTH, SESS, CUR, IDX, CHR, the configuration, what the host
does next, every byte of TXT and the five foreign bits of CP_OUT are as before; ERR_DNR too, unless the fault is taken. -/
def Obligations.TransferCommandsFrame : Prop :=
  ∀ (i : Instr) (b : Byte) (s t : State), i = .wri b ∨ i = .wrd b ∨ i = .clear → exec i s = .next t →
    t.width = s.width ∧ t.sess = s.sess ∧ t.cur = s.cur ∧ t.idx = s.idx ∧ t.chr = s.chr ∧ t.cfg = s.cfg ∧
    t.host = s.host ∧ sameText s t ∧ sameForeignBits s t ∧
    (t.outcome ≠ some .deviceNotResponding → t.errDnr = s.errDnr)

/-! ## Every completed command -/

/-- R34, R99: any command that made a transfer and ended Done leaves RS = 0, RW = 1, EN = 0, both direction registers
as they were when it began, BP_OUT the last value driven and the five foreign bits of CP_OUT unchanged; a raw pulse leaves
RS = 0, RW = 0, EN = 0, the directions as they were and BP_OUT the pulse value. -/
def Obligations.CompletedCommandLeavesPorts : Prop :=
  (∀ (i : Instr) (s t : State), exec i s = .next t → t.outcome = some .done →
    line t .rs = false ∧ line t .rw = true ∧ line t .en = false ∧
    t.cpDir = s.cpDir ∧ t.bpDir = s.bpDir ∧ lastBusW (newEvents s t) = some t.bpOut ∧ sameForeignBits s t) ∧
  (∀ (v : Byte) (t : Nat) (s : State),
    line (rawPulse v t s) .rs = false ∧ line (rawPulse v t s) .rw = false ∧ line (rawPulse v t s) .en = false ∧
    (rawPulse v t s).cpDir = s.cpDir ∧ (rawPulse v t s).bpDir = s.bpDir ∧ (rawPulse v t s).bpOut = v)

/-- R149: the fault restores too. A command that returns, in whatever way, has left both direction registers as it found
them. -/
def Obligations.EveryReturnRestoresDirections : Prop :=
  ∀ (i : Instr) (s t : State), exec i s = .next t → t.seq = .idle → t.cpDir = s.cpDir ∧ t.bpDir = s.bpDir

/-! ## INIT -/

/-- R67, R126: each of the 254 INIT words whose operand is neither 4 nor 8 is legal and changes nothing: the command
returns with outcome NoOp. That it leaves a session alone that is not Uninitialized is the spec's own choice, decision D20
(assumption 16). -/
def Obligations.UnsupportedWidthIsNoOp : Prop :=
  ((List.range 256).filter fun w => w ≠ 4 ∧ w ≠ 8).length = 254 ∧
  ∀ (w : Nat) (s : State), w < 256 → w ≠ 4 → w ≠ 8 →
    decode (0x0400 + BitVec.ofNat 16 w) = .ok (.init w) ∧
    (s.seq = .idle → s.upc = [] → exec (.init w) s = .next { s with outcome := some .noOp })

/-- R107: INIT 8 and INIT 4, when each of the five busy-flag waits returns, answer the state after the power delay, the
raw pulses, WIDTH, the five transfers and SESS = Ready, Done, from any value of SESS and WIDTH (R109). The shape of the raw
pulse, its delays and the places of the writes are the spec's own choices: decisions D12 to D15, D21. -/
def Obligations.InitCompletes : Prop :=
  ∀ s : State, waitsReturn s.cfg 5 s.answers = true →
    exec (.init 8) s = .next (endCommand .done (afterInit 8 .eight s)) ∧
    exec (.init 4) s = .next (endCommand .done (afterInit 4 .four s))

/-- R107: the whole trace of INIT 8 and of INIT 4 from directions (c, d). -/
def Obligations.InitEventList : Prop :=
  ∀ s : State, waitsReturn s.cfg 5 s.answers = true →
    (∃ t, exec (.init 8) s = .next t ∧ t.width = .eight ∧ t.sess = .ready ∧
      t.trace = s.trace ++ ([.dly 45000] ++
        rawPulseEvents s.cfg.cmdFsReset 4100 s.cpDir s.bpDir ++ rawPulseEvents s.cfg.cmdFsReset 100 s.cpDir s.bpDir ++
        rawPulseEvents s.cfg.cmdFsReset 100 s.cpDir s.bpDir ++
        transferEvents s.cfg .eight s.cpDir s.bpDir
          [(false, s.cfg.cmdFs8), (false, s.cfg.cmdDisplayOff), (false, s.cfg.cmdClear), (false, s.cfg.cmdEntryMode),
            (false, s.cfg.cmdDisplayOn)] s.answers)) ∧
    (∃ t, exec (.init 4) s = .next t ∧ t.width = .four ∧ t.sess = .ready ∧
      t.trace = s.trace ++ ([.dly 45000] ++
        rawPulseEvents s.cfg.cmdFsReset 4100 s.cpDir s.bpDir ++ rawPulseEvents s.cfg.cmdFsReset 100 s.cpDir s.bpDir ++
        rawPulseEvents s.cfg.cmdFsReset 100 s.cpDir s.bpDir ++
        rawPulseEvents s.cfg.cmdFsSwitch4 600 s.cpDir s.bpDir ++
        transferEvents s.cfg .four s.cpDir s.bpDir
          [(false, s.cfg.cmdFs4), (false, s.cfg.cmdDisplayOff), (false, s.cfg.cmdClear), (false, s.cfg.cmdEntryMode),
            (false, s.cfg.cmdDisplayOn)] s.answers))

/-- R108: an INIT that does not reach its end, because a wait goes on or the fault is taken, leaves SESS Initializing
and WIDTH as step I9 wrote it. The spec's own choice: decision D14. -/
def Obligations.UnfinishedInitStaysInitializing : Prop :=
  ∀ (w : Nat) (width : BusWidth) (s t : State),
    (w = 8 ∧ width = .eight) ∨ (w = 4 ∧ width = .four) → exec (.init w) s = .next t →
      t.width = width ∧ (t.sess = if t.outcome = some .done then .ready else .initializing)

/-- The frame of INIT: CUR, IDX, CHR, the configuration, what the host does next, every byte of TXT and the foreign bits of
CP_OUT; ERR_DNR too, unless the fault is taken. It never is refused. -/
def Obligations.InitFrame : Prop :=
  ∀ (w : Nat) (s : State),
    (∀ r, exec (.init w) s ≠ .refused r) ∧
    ∀ t, exec (.init w) s = .next t →
      t.cur = s.cur ∧ t.idx = s.idx ∧ t.chr = s.chr ∧ t.cfg = s.cfg ∧ t.host = s.host ∧ sameText s t ∧
      sameForeignBits s t ∧ (t.outcome ≠ some .deviceNotResponding → t.errDnr = s.errDnr)

/-! ## CLEAR -/

/-- R110: CLEAR in Ready, when the wait returns, answers the state after one instruction transfer of CMD_CLEAR. -/
def Obligations.ClearCompletes : Prop :=
  ∀ s : State, s.sess = .ready → s.width ≠ .unset → waitReturns s.cfg s.answers = true →
    exec .clear s = .next (endCommand .done (afterTransfer false s.cfg.cmdClear s))

/-- R73: in Ready, CLEAR does what WRI CMD_CLEAR does, whatever the oracle answers: the states differ at most in the
bottom frame of UPC. -/
def Obligations.ClearIsWriOfClearByte : Prop :=
  ∀ s : State, s.sess = .ready →
    (∀ t, exec .clear s = .next t →
      ∃ u, exec (.wri s.cfg.cmdClear) s = .next u ∧ u.trace = t.trace ∧ t = { u with upc := t.upc }) ∧
    (∀ r, exec .clear s = .refused r ↔ exec (.wri s.cfg.cmdClear) s = .refused r)

/-- R121: CLEAR and DISPLAY are refused with reason NotReady exactly when SESS is not Ready. The spec's own choice:
decision D22. -/
def Obligations.SessionCommandsNeedReady : Prop :=
  ∀ s : State,
    (exec .clear s = .refused .notReady ↔ s.sess ≠ .ready) ∧
    (exec .display s = .refused .notReady ↔ s.sess ≠ .ready)

/-! ## DISPLAY -/

/-- R111, R112: DISPLAY in Ready, when each of its 1 + 2 n busy-flag waits returns, n the number of cells the text fills,
answers the state after the clear and the pairs of transfers of the cells, Done, with IDX, CUR and CHR where the walk
stops. That the address is sent for every character is the spec's own choice: decision D16; the newline arm: D19. -/
def Obligations.DisplayCompletes : Prop :=
  ∀ s : State, s.sess = .ready → s.width ≠ .unset →
    waitsReturn s.cfg (1 + 2 * (displayCells s.cfg.term s.txt).length) s.answers = true →
      exec .display s = .next (endCommand .done (afterDisplay s))

/-- R111, R114: the whole trace of a DISPLAY that ends Done. -/
def Obligations.DisplayEventList : Prop :=
  ∀ s t : State, exec .display s = .next t → t.outcome = some .done →
    t.trace = s.trace ++
      transferEvents s.cfg s.width s.cpDir s.bpDir
        ((false, s.cfg.cmdClear) ::
          (displayCells s.cfg.term s.txt).flatMap fun cell =>
            [(false, s.cfg.cmdSetDdram ||| cell.1.zeroExtend 8), (true, cell.2)])
        s.answers

/-- Property T2 of the source: a text of at most 16 characters is written at 0x00 to len-1 in order, after one clear. -/
def Obligations.ShortTextOnLineOne : Prop :=
  ∀ (s t : State) (chars : List Byte),
    chars.length ≤ 16 → (∀ ch ∈ chars, ch ≠ s.cfg.term ∧ ch ≠ 0x0A) →
    s.txt = Memory.ofBytes (chars ++ [s.cfg.term]) →
    exec .display s = .next t → t.outcome = some .done →
      t.trace = s.trace ++
        transferEvents s.cfg s.width s.cpDir s.bpDir
          ((false, s.cfg.cmdClear) ::
            chars.zipIdx.flatMap fun c => [(false, s.cfg.cmdSetDdram ||| BitVec.ofNat 8 c.2), (true, c.1)])
          s.answers

/-- R117: it is the source index 16 that forces the cursor to 0x40, whatever CUR holds. The character at position 16 is
written at 0x40, whatever stood before it. With no newline before position 16 the cursor is 0x10 there, and the 17th
written character, where there is one, is at 0x40. The last clause says both of the events of a DISPLAY that ends Done. That
the address is sent for every character, and the order of the steps, are the spec's own choices: decisions D16, D8. -/
def Obligations.PositionSixteenOnLineTwo : Prop :=
  (∀ s : State, (s.idx = 16 → forceLine2 s = { s with cur := 0x40 }) ∧ (s.idx ≠ 16 → forceLine2 s = s)) ∧
  (∀ (term : Byte) (text : Memory), (∀ i < 16, Memory.read text i ≠ term) → isChar term text 16 →
    ∃ rest, displayCells term text = textCells term text 16 0 0x00 ++ (0x40, Memory.read text 16) :: rest) ∧
  (∀ (term : Byte) (text : Memory), (∀ i < 16, isChar term text i) →
    walkStop term text 16 0 0x00 = (16, 0x10) ∧
    ∀ cell, (displayCells term text)[16]? = some cell → cell.1 = 0x40) ∧
  (∀ s t : State, exec .display s = .next t → t.outcome = some .done →
    ((∀ i < 16, Memory.read s.txt i ≠ s.cfg.term) → isChar s.cfg.term s.txt 16 →
      ∃ rest, t.trace = s.trace ++
        displayEvents s (textCells s.cfg.term s.txt 16 0 0x00 ++ (0x40, Memory.read s.txt 16) :: rest)) ∧
    ((∀ i < 16, isChar s.cfg.term s.txt i) →
      ∃ later, t.trace = s.trace ++
          displayEvents s (((List.range 16).map fun i => (BitVec.ofNat 7 i, Memory.read s.txt i)) ++ later) ∧
        ∀ cell, later.head? = some cell → cell.1 = 0x40))

/-- R116: a newline at position k is not written, and the next character is written at 0x40 whatever k is: the cells
of the text are those of its first k positions, then (0x40, the character at k + 1), then the rest; and a DISPLAY that ends
Done emits the events of just those. That the address is sent for every character, that the newline arm moves on by exactly
one, and the order of the steps are the spec's own choices: decisions D16, D19, D8. -/
def Obligations.NewlineGoesToLineTwo : Prop :=
  (∀ (term : Byte) (text : Memory) (k : Nat),
    k + 1 < 32 → (∀ i < k, Memory.read text i ≠ term) → term ≠ 0x0A → Memory.read text k = 0x0A →
    isChar term text (k + 1) →
      ∃ rest, displayCells term text =
        textCells term text k 0 0x00 ++ (0x40, Memory.read text (k + 1)) :: rest) ∧
  (∀ (s t : State) (k : Nat), exec .display s = .next t → t.outcome = some .done →
    k + 1 < 32 → (∀ i < k, Memory.read s.txt i ≠ s.cfg.term) → s.cfg.term ≠ 0x0A → Memory.read s.txt k = 0x0A →
    isChar s.cfg.term s.txt (k + 1) →
      ∃ rest, t.trace = s.trace ++
        displayEvents s (textCells s.cfg.term s.txt k 0 0x00 ++ (0x40, Memory.read s.txt (k + 1)) :: rest))

/-- R119: the transfers in the trace of a DISPLAY that ends Done are the clear and those of the cells of the text, of which
there are at most 32; each address that is sent is that of one of the 32 visible cells, with the default CMD_SET_DDRAM a byte
0x80 to 0x8F or 0xC0 to 0xCF; and the walk leaves CUR in 0x00..0x10 or 0x40..0x50 and IDX at most 32. That the address is
sent for every character, and the order of the steps, are the spec's own choices: decisions D16, D8. -/
def Obligations.DisplayWritesVisibleCells : Prop :=
  ∀ s t : State, exec .display s = .next t → t.outcome = some .done →
    t.trace = s.trace ++ displayEvents s (displayCells s.cfg.term s.txt) ∧
    (∀ cell ∈ displayCells s.cfg.term s.txt,
      (cell.1.toNat < 0x10 ∨ (0x40 ≤ cell.1.toNat ∧ cell.1.toNat < 0x50)) ∧
      (s.cfg.cmdSetDdram = 0x80 →
        (0x80 ≤ (setDdramByte s.cfg cell.1).toNat ∧ (setDdramByte s.cfg cell.1).toNat ≤ 0x8F) ∨
        (0xC0 ≤ (setDdramByte s.cfg cell.1).toNat ∧ (setDdramByte s.cfg cell.1).toNat ≤ 0xCF))) ∧
    (displayCells s.cfg.term s.txt).length ≤ 32 ∧
    (t.cur.toNat ≤ 0x10 ∨ (0x40 ≤ t.cur.toNat ∧ t.cur.toNat ≤ 0x50)) ∧ t.idx.toNat ≤ 32

/-- R115: nothing beyond index 31 of the text has any effect, and a text with m newlines among its first 32 bytes fills
at most 32 - m cells. -/
def Obligations.TextBeyond32IsNotSeen : Prop :=
  (∀ (s : State) (text text' : Memory), (∀ i < 32, Memory.read text i = Memory.read text' i) →
    (∀ t, exec .display { s with txt := text } = .next t →
      exec .display { s with txt := text' } = .next { t with txt := text' }) ∧
    (∀ r, exec .display { s with txt := text } = .refused r → exec .display { s with txt := text' } = .refused r)) ∧
  (∀ (term : Byte) (text : Memory),
    (displayCells term text).length + ((List.range 32).filter fun i => Memory.read text i = 0x0A).length ≤ 32)

/-- R120: nothing is carried from one DISPLAY to the next: what CUR, IDX and CHR held before makes no difference to a
DISPLAY that ends Done. -/
def Obligations.DisplayForgetsCursor : Prop :=
  ∀ (s t : State) (cur : DdramAddr) (idx : TextIndex) (chr : Byte),
    exec .display s = .next t → t.outcome = some .done →
      exec .display { s with cur := cur, idx := idx, chr := chr } = .next t

/-- The frame of DISPLAY, whatever it comes to: WIDTH, SESS, the configuration, what the host does next, every byte of TXT
and the foreign bits of CP_OUT; ERR_DNR too, unless the fault is taken. -/
def Obligations.DisplayFrame : Prop :=
  ∀ s t : State, exec .display s = .next t →
    t.width = s.width ∧ t.sess = s.sess ∧ t.cfg = s.cfg ∧ t.host = s.host ∧ sameText s t ∧ sameForeignBits s t ∧
    (t.outcome ≠ some .deviceNotResponding → t.errDnr = s.errDnr)

/-! ## The whole machine -/

/-- The invariant holds after reset, for every configuration. The clause that IDX is at most 32 leans on the model's zero for
IDX (assumption 4, unsafe): the spec leaves the reset value of IDX unspecified (R19, R33). The empty TXT is assumption 5. -/
def Obligations.ResetMeetsInvariant : Prop := ∀ c : Config, Inv (State.resetWith c)

/-- Every step keeps the invariant, from every state that meets it. For a step that takes a reset, the clause that IDX is at
most 32 leans on the value the model gives IDX then (assumptions 6 and 4, unsafe). -/
def Obligations.StepKeepsInvariant : Prop := ∀ s t : State, Inv s → step s = .next t → Inv t

/-- R83, R128: from a state that meets the invariant no step is stuck and none breaks the direction contract: a step
stops only on a reserved word, on use before INIT, or on a session that is not Ready. The two stuck faults and the refusal
of the direction contract that this rules out are the model's own stops: assumption 15. That the three cases that remain are
refused is the spec's own choice: decisions D3, D22. -/
def Obligations.OnlyTheHostCanBeRefused : Prop :=
  ∀ s : State, Inv s →
    (∃ t, step s = .next t) ∨ (∃ e, step s = .refused (.reservedCommand e)) ∨
      step s = .refused .useBeforeInit ∨ step s = .refused .notReady

/-- R83 (A1) to (A3): in a running block that meets the invariant, the step about to run drives the bus only with every
bus pin an output, reads it only with bus bit 7 an input, and writes a control line only with every control pin an
output. -/
def Obligations.ArbiterDiscipline : Prop :=
  ∀ s t : State, Inv s → s.seq = .running → microStep s = .next t →
    ((∃ v, newEvents s t = [.busW v]) → s.bpDir = 0xFF) ∧
    ((∃ v, newEvents s t = [.busR v]) → getBit s.bpDir 7 = false) ∧
    ((∃ l b, newEvents s t = [.ctlW l b]) → s.cpDir = 0xFF)

/-- R83 (A4): from a command accepted with EN = 0, RW and EN are both 1 only while bus bit 7 is an input: the property
of the lines that implies it holds when the command is accepted, every step of the sequencer keeps it, and it says that
EN = 0 when the command has ended. -/
def Obligations.ReadCycleNeverDrivesBit7 : Prop :=
  (∀ (i : Instr) (s : State), enLow s = true → LinesOk (acceptCommand i s)) ∧
  (∀ s t : State, Inv s → LinesOk s → s.seq = .running → microStep s = .next t →
    LinesOk t ∧ readKeepsBit7 t = true ∧ (t.upc = [] → line t .en = false))

/-- R45, R82, R152: when a poll samples the bus, every control pin is driven with its bit of CP_OUT, bus pin 7 is not
driven, and each of the bus pins 6 to 0 is still driven with its bit of BP_OUT. -/
def Obligations.PollLeavesLowPinsDriven : Prop :=
  ∀ (s : State) (below : List Frame), Inv s → s.upc = .bfw .b8 :: below →
    (∀ k : Fin 8, controlPin s k = some (getBit s.cpOut k)) ∧ busPin s 7 = none ∧
    (∀ k : Fin 8, k ≠ 7 → busPin s k = some (getBit s.bpOut k))

/-- R21: the big-step and the small-step reading agree. Where `exec` answers a state, some number of the sequencer's
steps from the accepted command comes to the same state, trace included, and where it refuses, the sequencer refuses
for the same reason. That both readings may be taken is decision D32;
where `exec` stops short is the model's convention: assumption 9. -/
def Obligations.CommandIsItsSteps : Prop :=
  ∀ (i : Instr) (s : State),
    (∀ t, exec i s = .next t → ∃ n, microRun n (acceptCommand i s) = .next t) ∧
    (∀ r, exec i s = .refused r → ∃ n, microRun n (acceptCommand i s) = .refused r) ∧
    (∀ f, exec i s ≠ .fault f)

/-- R22, R23: WIDTH and SESS change only by INIT and by reset: WIDTH at step I9, SESS at step I2 (to Initializing) and at step
I15 (to Ready), or either in an INIT 4 or INIT 8 run whole (assumption 9). The places of the steps are the spec's own
choice: decision D14. -/
def Obligations.OnlyInitWritesWidth : Prop :=
  ∀ s t : State, step s = .next t →
    (t.width ≠ s.width →
      s.host.head? = some .reset ∨
      (s.seq = .running ∧ ∃ w below, s.upc = .init w .i9 :: below) ∨
      (s.seq = .idle ∧ ∃ word text w, s.host.head? = some (.command word text) ∧ decode word = .ok (.init w) ∧
        (w = 4 ∨ w = 8))) ∧
    (t.sess ≠ s.sess →
      (s.host.head? = some .reset ∧ t.sess = .uninitialized) ∨
      (s.seq = .running ∧ ∃ w below,
        (s.upc = .init w .i2 :: below ∧ t.sess = .initializing) ∨ (s.upc = .init w .i15 :: below ∧ t.sess = .ready)) ∨
      (s.seq = .idle ∧ ∃ word text w, s.host.head? = some (.command word text) ∧ decode word = .ok (.init w) ∧
        (w = 4 ∨ w = 8)))

/-- R31, R133: ERR_DNR is cleared by reset only. -/
def Obligations.OnlyResetClearsErrDnr : Prop :=
  ∀ s t : State, step s = .next t → s.errDnr = true → s.host.head? ≠ some .reset → t.errDnr = true

/-- R12, R51, and the configuration: a step only ever adds to the end of the trace, and changes no parameter. -/
def Obligations.StepOnlyExtendsTrace : Prop :=
  ∀ s t : State, step s = .next t → s.trace <+: t.trace ∧ t.cfg = s.cfg

/-- R24: no step of the block, however it ends, changes the five foreign bits of CP_OUT: only another user of the port
does, whose write of CP_OUT an idle block takes. That a reset step leaves them is the model's choice: assumption 6. -/
def Obligations.StepKeepsForeignBits : Prop :=
  ∀ s t : State, step s = .next t → ¬ (s.seq = .idle ∧ ∃ v, s.host.head? = some (.portWrite .cpOut v)) →
    sameForeignBits s t

/-- R63: with WIDTH Four, WRI b and WRD b that end Done load b into DREG and put two strobes on the bus before the first read
cycle, of `DREG & 0xF0` and then of `(DREG << 4) & 0xF0`; `{first[7:4], second[7:4]}` is the byte. Every value that WRI, WRD,
CLEAR and DISPLAY drive onto the bus has its low four bits 0, however the command ends. -/
def Obligations.FourBitModeClearsLowPins : Prop :=
  (∀ (b : Byte) (k : Bool) (s t : State), s.width = .four → exec (if k then .wrd b else .wri b) s = .next t →
    t.outcome = some .done →
      t.dreg = b ∧ busWrites (newEvents s t) = [t.dreg &&& 0xF0, (t.dreg <<< 4) &&& 0xF0] ∧
      writeStrobes (newEvents s t) =
        [.busW (t.dreg &&& 0xF0), .ctlW .en true, .busW ((t.dreg <<< 4) &&& 0xF0), .ctlW .en true] ∧
      joinNibbles (t.dreg &&& 0xF0) ((t.dreg <<< 4) &&& 0xF0) = b) ∧
  (∀ (i : Instr) (s t : State), s.width = .four → (∀ w, i ≠ .init w) → exec i s = .next t →
    ∀ v, .busW v ∈ newEvents s t → v &&& 0x0F = 0)

/-- R163: the sum of the delays of each command that ends Done. -/
def Obligations.DelayPerCommand : Prop :=
  (∀ (i : Instr) (b : Byte) (s t : State), i = .wri b ∨ i = .wrd b ∨ i = .clear → exec i s = .next t →
    t.outcome = some .done →
      totalDelay (newEvents s t) = if s.width = .eight then 1 else 3201) ∧
  (∀ s t : State, exec (.init 8) s = .next t → t.outcome = some .done → totalDelay (newEvents s t) = 49305) ∧
  (∀ s t : State, exec (.init 4) s = .next t → t.outcome = some .done → totalDelay (newEvents s t) = 65905) ∧
  (∀ s t : State, exec .display s = .next t → t.outcome = some .done →
    totalDelay (newEvents s t) =
      (1 + 2 * (displayCells s.cfg.term s.txt).length) * (if s.width = .eight then 1 else 3201))

/-! ## What the reference observer sees -/

/-- R63, property T6 of the source: a four-bit transfer drives the bus twice, with `b & 0xF0` and then with
`(b << 4) & 0xF0`, from which `{first[7:4], second[7:4]}` is the byte. Begun with EN = 0 it is seen at either edge as two
write strobes of those values, then one read strobe for each poll. The observer is the
spec's test harness (decision D26; assumption 12), and one read strobe for each poll is the Busy-Flag Monitor's
(R86; decisions D9, D31). -/
def Obligations.FourBitTransferSeenAsItsByte : Prop :=
  (∀ b : Byte, joinNibbles (b &&& 0xF0) ((b <<< 4) &&& 0xF0) = b) ∧
  (∀ (edge : Edge) (b : Byte) (s t : State), s.width = .four →
    (exec (.wri b) s = .next t → t.outcome = some .done →
      busWrites (newEvents s t) = [b &&& 0xF0, (b <<< 4) &&& 0xF0] ∧
      (enLow s = true → observe edge Observer.start (newEvents s t) =
        [.instr (b &&& 0xF0), .instr ((b <<< 4) &&& 0xF0)] ++ List.replicate (busyCount s.answers + 1) .read)) ∧
    (exec (.wrd b) s = .next t → t.outcome = some .done →
      busWrites (newEvents s t) = [b &&& 0xF0, (b <<< 4) &&& 0xF0] ∧
      (enLow s = true → observe edge Observer.start (newEvents s t) =
        [.data (b &&& 0xF0), .data ((b <<< 4) &&& 0xF0)] ++ List.replicate (busyCount s.answers + 1) .read)))

/-- R62, R146: an eight-bit transfer, WRI b or WRD b, drives the bus once, with the byte. Begun with EN = 0 and
EN8_RELEASE = ByMonitor it shows a rising-edge observer the byte and N reads, and a falling-edge observer N + 1 reads and no
write at all; with ByEngine both see the byte and N + 1 reads. Who lowers EN is decision D10; the observer is the spec's test
harness: decision D26, assumption 12. -/
def Obligations.EightBitTransferSeenByEdge : Prop :=
  ∀ (k : Bool) (b : Byte) (s t : State), s.width = .eight →
    exec (if k then .wrd b else .wri b) s = .next t → t.outcome = some .done →
      busWrites (newEvents s t) = [b] ∧
      (enLow s = true → s.cfg.en8Release = .byMonitor →
        observe .rise Observer.start (newEvents s t) =
          (if k then .data b else .instr b) :: List.replicate (busyCount s.answers) .read ∧
        observe .fall Observer.start (newEvents s t) = List.replicate (busyCount s.answers + 1) .read) ∧
      (enLow s = true → s.cfg.en8Release = .byEngine → ∀ edge,
        observe edge Observer.start (newEvents s t) =
          (if k then .data b else .instr b) :: List.replicate (busyCount s.answers + 1) .read)

/-- Property T1 of the source: the write strobes of INIT, at a rising edge: three function-set resets, for width 4 the
mode-switch pulse, then function-set, display-off, clear, entry-mode-set, display-on, in that order. The observer is
the spec's test harness: decision D26, assumption 12. -/
def Obligations.InitSeenInOrder : Prop :=
  ∀ s t : State, enLow s = true → t.outcome = some .done →
    (exec (.init 8) s = .next t →
      (observe .rise Observer.start (newEvents s t)).filter (· != .read) =
        [.instr s.cfg.cmdFsReset, .instr s.cfg.cmdFsReset, .instr s.cfg.cmdFsReset, .instr s.cfg.cmdFs8,
          .instr s.cfg.cmdDisplayOff, .instr s.cfg.cmdClear, .instr s.cfg.cmdEntryMode, .instr s.cfg.cmdDisplayOn]) ∧
    (exec (.init 4) s = .next t →
      ((observe .rise Observer.start (newEvents s t)).filter (· != .read)).take 4 =
        [.instr s.cfg.cmdFsReset, .instr s.cfg.cmdFsReset, .instr s.cfg.cmdFsReset, .instr s.cfg.cmdFsSwitch4] ∧
      joinStrobes (((observe .rise Observer.start (newEvents s t)).filter (· != .read)).drop 4) =
        [.instr s.cfg.cmdFs4, .instr s.cfg.cmdDisplayOff, .instr s.cfg.cmdClear, .instr s.cfg.cmdEntryMode,
          .instr s.cfg.cmdDisplayOn])

/-- What DISPLAY puts on the reference mock, in eight-bit mode at a rising edge, with the default clear and set-address
bytes: whatever the mock held before, it holds exactly the cells of the text, the later over the earlier. The mock is
general knowledge and no part of the block: item G7 of spec/93_implementation_defined.md, assumption 12 (PRESUMED),
decision D26. -/
def Obligations.DisplayFillsTheMock : Prop :=
  ∀ (d : MockDisplay) (s t : State), s.width = .eight → enLow s = true → s.cfg.cmdClear = 0x01 →
    s.cfg.cmdSetDdram = 0x80 → exec .display s = .next t → t.outcome = some .done →
      (d.takeAll (observe .rise Observer.start (newEvents s t))).cells = (displayCells s.cfg.term s.txt).reverse

/-- R72: the pseudo-instruction WCA a, c, given to an idle block with a width, is the pair of transfers that writes the
character at the address, when both waits return. The pair is decision D16; that a command is run whole by one step, and
that the words come from the list `host`, are the model's: assumptions 9 and 7. -/
def Obligations.WriteCharacterAtAddress : Prop :=
  ∀ (s : State) (a : DdramAddr) (c : Byte),
    s.seq = .idle → s.width ≠ .unset → s.host = [] → waitsReturn s.cfg 2 s.answers = true →
      Host.Core.run Sys2Proof.core 2 { s with host := assemble s.cfg (.wca a c) } =
        .next (endCommand .done
          (afterTransfers [(false, s.cfg.cmdSetDdram ||| a.zeroExtend 8), (true, c)] s))

/-! ## What is not true of the block -/

/-- R124: "every command returns" is false of this hardware: no number of steps is enough for every running command to
end, since an oracle may stay busy for longer. -/
def Obligations.EveryCommandReturns : Prop :=
  ∃ n, ∀ s : State, Inv s → s.seq = .running → s.host = [] →
    ∃ m ≤ n, ∃ t, Host.Core.run Sys2Proof.core m s = .next t ∧ t.seq = .idle

/-- R146: "in eight-bit mode EN falls while RW = 0" is false with the default EN8_RELEASE: a falling-edge observer does
not see the byte. -/
def Obligations.EightBitWriteSeenAtFall : Prop :=
  ∀ (b : Byte) (s t : State), s.width = .eight → s.cfg.en8Release = .byMonitor → enLow s = true →
    exec (.wrd b) s = .next t → t.outcome = some .done →
      .data b ∈ observe .fall Observer.start (newEvents s t)

/-- R116, R118: "a newline always moves later text to fresh cells" is false: two characters of one DISPLAY can go to one
cell. With CMD_SET_DDRAM = 0x80 the cells are those whose set-address and data transfers the trace of a DISPLAY that ended
Done holds. That the address is sent for every character, that the newline arm moves on by exactly one, and the order of the
steps are the spec's own choices: decisions D16, D19, D8. -/
def Obligations.NewlineTextHasFreshCells : Prop :=
  ∀ (s t : State) (cells : List (DdramAddr × Byte)), s.cfg.cmdSetDdram = 0x80 →
    exec .display s = .next t → t.outcome = some .done → t.trace = s.trace ++ displayEvents s cells →
      (cells.map fun cell => cell.1).Nodup
end

