-- ==== Sys2Proof/Laws/Bits.lean ====
section
/-! SUPPORT. The laws of the bits: one bit of a port register written and read, the three control lines, the direction
masks, the nibbles. -/

namespace Sys2Proof.Machine

/-- A written bit reads back, and every other bit is as it was. -/
@[simp] theorem getBit_setBit (v : Byte) (i j : Fin 8) (b : Bool) :
    getBit (setBit v i b) j = if j = i then b else getBit v j := by
  unfold getBit setBit
  have hi := i.isLt
  have hj := j.isLt
  by_cases h : j = i
  · subst h
    cases b <;> simp
  · have hne : j.val ≠ i.val := fun h' => h (Fin.ext h')
    have hs : (1#8 <<< i.val).getLsbD j.val = false := by
      rw [BitVec.getLsbD_shiftLeft]
      by_cases hlt : j.val < i.val
      · simp [hlt]
      · simp only [hj, decide_true, hlt, decide_false, Bool.not_false, Bool.and_true, Bool.true_and]
        rw [BitVec.getLsbD_one]
        simp; omega
    cases b
    · simp only [Bool.false_eq_true, if_false, BitVec.getLsbD_and, BitVec.getLsbD_not, hs, h]
      simp [hj]
    · simp only [if_true, BitVec.getLsbD_or, hs, h, Bool.or_false, if_false]

/-- Two bytes with the same bits are equal. -/
theorem byte_ext {v w : Byte} (h : ∀ i, getBit v i = getBit w i) : v = w := by
  apply BitVec.eq_of_getLsbD_eq
  intro i hi
  exact h ⟨i, hi⟩

theorem Pins.rs_ne_rw (p : Pins) : p.rsBit ≠ p.rwBit := by
  have h := p.distinct
  simp only [Bool.and_eq_true, bne_iff_ne] at h
  exact h.1.1

theorem Pins.rs_ne_en (p : Pins) : p.rsBit ≠ p.enBit := by
  have h := p.distinct
  simp only [Bool.and_eq_true, bne_iff_ne] at h
  exact h.1.2

theorem Pins.rw_ne_en (p : Pins) : p.rwBit ≠ p.enBit := by
  have h := p.distinct
  simp only [Bool.and_eq_true, bne_iff_ne] at h
  exact h.2

theorem linePos_ne (c : Config) {l m : Line} (h : l ≠ m) : linePos c l ≠ linePos c m := by
  cases l <;> cases m <;>
    first
    | exact absurd rfl h
    | simp [linePos, Pins.rs_ne_rw, Pins.rs_ne_en, Pins.rw_ne_en, Ne.symm (Pins.rs_ne_rw _),
        Ne.symm (Pins.rs_ne_en _), Ne.symm (Pins.rw_ne_en _)]

/-- CP_OUT after `withLines`: each control line at its level, every other bit as it was. -/
theorem getBit_withLines (c : Config) (v : Byte) (rs rw en : Bool) (j : Fin 8) :
    getBit (withLines c v rs rw en) j =
      if j = c.pins.enBit then en else if j = c.pins.rwBit then rw else if j = c.pins.rsBit then rs
      else getBit v j := by
  simp [withLines]

theorem setBit_setBit_same (v : Byte) (i : Fin 8) (a b : Bool) : setBit (setBit v i a) i b = setBit v i b := by
  apply byte_ext
  intro j
  by_cases h : j = i <;> simp [h]

theorem setBit_comm (v : Byte) {i j : Fin 8} (h : i ≠ j) (a b : Bool) :
    setBit (setBit v i a) j b = setBit (setBit v j b) i a := by
  apply byte_ext
  intro k
  by_cases hi : k = i
  · subst hi
    simp [h]
  · by_cases hj : k = j <;> simp [hi, hj, h.symm]

@[simp] theorem withLines_setRs (c : Config) (v : Byte) (a rs rw en : Bool) :
    withLines c (setBit v c.pins.rsBit a) rs rw en = withLines c v rs rw en := by
  simp [withLines, setBit_setBit_same]

@[simp] theorem withLines_setRw (c : Config) (v : Byte) (a rs rw en : Bool) :
    withLines c (setBit v c.pins.rwBit a) rs rw en = withLines c v rs rw en := by
  simp [withLines, setBit_comm _ (Pins.rs_ne_rw c.pins).symm, setBit_setBit_same]

@[simp] theorem withLines_setEn (c : Config) (v : Byte) (a rs rw en : Bool) :
    withLines c (setBit v c.pins.enBit a) rs rw en = withLines c v rs rw en := by
  simp [withLines, setBit_comm _ (Pins.rs_ne_en c.pins).symm, setBit_comm _ (Pins.rw_ne_en c.pins).symm,
    setBit_setBit_same]

/-- EN written over `withLines`. -/
@[simp] theorem setEn_withLines (c : Config) (v : Byte) (rs rw en b : Bool) :
    setBit (withLines c v rs rw en) c.pins.enBit b = withLines c v rs rw b := by
  simp [withLines, setBit_setBit_same]

/-- RW written over `withLines`. -/
@[simp] theorem setRw_withLines (c : Config) (v : Byte) (rs rw en b : Bool) :
    setBit (withLines c v rs rw en) c.pins.rwBit b = withLines c v rs b en := by
  simp [withLines, setBit_comm _ (Pins.rw_ne_en c.pins).symm, setBit_setBit_same]

/-- RS written over `withLines`. -/
@[simp] theorem setRs_withLines (c : Config) (v : Byte) (rs rw en b : Bool) :
    setBit (withLines c v rs rw en) c.pins.rsBit b = withLines c v b rw en := by
  simp [withLines, setBit_comm _ (Pins.rs_ne_en c.pins).symm, setBit_comm _ (Pins.rs_ne_rw c.pins).symm,
    setBit_setBit_same]

@[simp] theorem withLines_withLines (c : Config) (v : Byte) (a b d rs rw en : Bool) :
    withLines c (withLines c v a b d) rs rw en = withLines c v rs rw en := by
  conv_lhs => rw [withLines.eq_1 c v a b d]
  simp

@[simp] theorem maskDirection_all (d : Byte) : maskDirection d 0xFF#8 true = 0xFF#8 := by
  simp only [maskDirection, if_true]
  decide +revert

@[simp] theorem maskDirection_bit7 : maskDirection 0xFF#8 0x80#8 false = 0x7F#8 := by decide

/-- Step B3 clears bit 7 and keeps the other bits. -/
theorem maskDirection_input (d : Byte) : maskDirection d 0x80#8 false = d &&& 0x7F#8 := by
  simp only [maskDirection]
  decide +revert

/-- A byte is rebuilt from its two nibbles (spec/30_encoding.md R63). -/
theorem joinNibbles_nibbles (b : Byte) : joinNibbles (highNibble b) (lowNibble b) = b := by
  unfold joinNibbles highNibble lowNibble
  decide +revert

end Sys2Proof.Machine
end

