-- ==== Sys2Proof/Laws/Memory.lean ====
section
/-! SUPPORT. The laws of the TXT space: the canonical form is kept by every operation, and a read after a write. -/

namespace Sys2Proof.Machine

theorem Memory.wfFrom_mono {lo lo' : Nat} (h : lo ≤ lo') {m : Memory} (hm : Memory.wfFrom lo' m = true) :
    Memory.wfFrom lo m = true := by
  cases m with
  | nil => rfl
  | cons c m =>
    simp only [Memory.wfFrom, Bool.and_eq_true, decide_eq_true_eq] at hm ⊢
    exact ⟨⟨h.trans hm.1.1, hm.1.2⟩, hm.2⟩

/-- An address below every listed one reads as unlisted. -/
theorem Memory.read_below {lo i : Nat} (h : i < lo) {m : Memory} (hm : Memory.wfFrom lo m = true) :
    Memory.read m i = Memory.unlisted := by
  induction m generalizing lo with
  | nil => rfl
  | cons c m ih =>
    simp only [Memory.wfFrom, Bool.and_eq_true, decide_eq_true_eq] at hm
    have hne : i ≠ c.1 := by omega
    simp only [Memory.read, hne, if_false]
    exact ih (lo := c.1 + 1) (by omega) hm.2

theorem Memory.erase_wfFrom {lo : Nat} {m : Memory} (i : Nat) (hm : Memory.wfFrom lo m = true) :
    Memory.wfFrom lo (Memory.erase m i) = true := by
  induction m generalizing lo with
  | nil => rfl
  | cons c m ih =>
    simp only [Memory.wfFrom, Bool.and_eq_true, decide_eq_true_eq] at hm
    by_cases hi : i = c.1
    · simp only [Memory.erase, hi, if_true]
      exact Memory.wfFrom_mono (by omega) hm.2
    · simp only [Memory.erase, hi, if_false, Memory.wfFrom, Bool.and_eq_true, decide_eq_true_eq]
      exact ⟨hm.1, ih hm.2⟩

theorem Memory.insert_wfFrom {lo i : Nat} {b : Byte} (hb : b ≠ Memory.unlisted) (hi : lo ≤ i) {m : Memory}
    (hm : Memory.wfFrom lo m = true) : Memory.wfFrom lo (Memory.insert m i b) = true := by
  induction m generalizing lo with
  | nil => simpa [Memory.insert, Memory.wfFrom, hi] using hb
  | cons c m ih =>
    have hm' := hm
    simp only [Memory.wfFrom, Bool.and_eq_true, decide_eq_true_eq, bne_iff_ne] at hm
    by_cases h1 : i < c.1
    · simp only [Memory.insert, h1, if_true, Memory.wfFrom, Bool.and_eq_true, decide_eq_true_eq, bne_iff_ne]
      exact ⟨⟨hi, hb⟩, ⟨by omega, hm.1.2⟩, hm.2⟩
    · by_cases h2 : i = c.1
      · subst h2
        simp only [Memory.insert, lt_irrefl, if_false, if_true, Memory.wfFrom, Bool.and_eq_true,
          decide_eq_true_eq, bne_iff_ne]
        exact ⟨⟨hi, hb⟩, hm.2⟩
      · simp only [Memory.insert, h1, h2, if_false, Memory.wfFrom, Bool.and_eq_true, decide_eq_true_eq, bne_iff_ne]
        exact ⟨hm.1, ih (by omega) hm.2⟩

/-- A write keeps the canonical form. -/
theorem Memory.write_wf {m : Memory} (i : Nat) (b : Byte) (hm : Memory.wf m = true) :
    Memory.wf (Memory.write m i b) = true := by
  unfold Memory.write
  split
  · exact Memory.erase_wfFrom i hm
  · exact Memory.insert_wfFrom ‹_› (Nat.zero_le i) hm

theorem Memory.ofBytesFrom_wfFrom (bs : List Byte) (i : Nat) :
    Memory.wfFrom i (Memory.ofBytesFrom i bs) = true := by
  induction bs generalizing i with
  | nil => rfl
  | cons b bs ih =>
    unfold Memory.ofBytesFrom
    split
    · exact Memory.wfFrom_mono (Nat.le_succ i) (ih (i + 1))
    · simp only [Memory.wfFrom, Bool.and_eq_true, decide_eq_true_eq, bne_iff_ne]
      exact ⟨⟨le_refl i, ‹_›⟩, ih (i + 1)⟩

/-- A text is a memory in canonical form. -/
theorem Memory.ofBytes_wf (bs : List Byte) : Memory.wf (Memory.ofBytes bs) = true :=
  Memory.ofBytesFrom_wfFrom bs 0

theorem Memory.read_ofBytesFrom (bs : List Byte) (i k : Nat) :
    Memory.read (Memory.ofBytesFrom i bs) (i + k) = (bs[k]?).getD Memory.unlisted := by
  induction bs generalizing i k with
  | nil => rfl
  | cons b bs ih =>
    have step : ∀ k, Memory.read (Memory.ofBytesFrom (i + 1) bs) (i + (k + 1)) = (bs[k]?).getD Memory.unlisted := by
      intro k
      rw [show i + (k + 1) = i + 1 + k by omega]
      exact ih (i + 1) k
    unfold Memory.ofBytesFrom
    cases k with
    | zero =>
      split
      · show Memory.read (Memory.ofBytesFrom (i + 1) bs) i = _
        rw [Memory.read_below (Nat.lt_succ_self i) (Memory.ofBytesFrom_wfFrom bs (i + 1))]
        simp_all
      · simp [Memory.read]
    | succ k =>
      split
      · exact step k
      · simpa [Memory.read] using step k

/-- A text is read back byte by byte, and past its end as unlisted. -/
theorem Memory.read_ofBytes (bs : List Byte) (k : Nat) :
    Memory.read (Memory.ofBytes bs) k = (bs[k]?).getD Memory.unlisted := by
  simpa [Memory.ofBytes] using Memory.read_ofBytesFrom bs 0 k

theorem Memory.read_erase_same {lo : Nat} {m : Memory} (i : Nat) (hm : Memory.wfFrom lo m = true) :
    Memory.read (Memory.erase m i) i = Memory.unlisted := by
  induction m generalizing lo with
  | nil => rfl
  | cons c m ih =>
    simp only [Memory.wfFrom, Bool.and_eq_true, decide_eq_true_eq] at hm
    by_cases hi : i = c.1
    · simp only [Memory.erase, hi, if_true]
      exact Memory.read_below (Nat.lt_succ_self c.1) hm.2
    · simp only [Memory.erase, Memory.read, hi, if_false]
      exact ih hm.2

theorem Memory.read_insert_same (m : Memory) (i : Nat) (b : Byte) : Memory.read (Memory.insert m i b) i = b := by
  induction m with
  | nil => simp [Memory.insert, Memory.read]
  | cons c m ih =>
    by_cases h1 : i < c.1
    · simp [Memory.insert, h1, Memory.read]
    · by_cases h2 : i = c.1
      · simp [Memory.insert, h2, Memory.read]
      · simp [Memory.insert, h1, h2, Memory.read, ih]

theorem Memory.read_erase_other {m : Memory} {i j : Nat} (h : j ≠ i) :
    Memory.read (Memory.erase m i) j = Memory.read m j := by
  induction m with
  | nil => rfl
  | cons c m ih =>
    by_cases hi : i = c.1
    · subst hi
      simp [Memory.erase, Memory.read, h]
    · by_cases hj : j = c.1 <;> simp [Memory.erase, Memory.read, hi, hj, ih]

theorem Memory.read_insert_other {m : Memory} {i j : Nat} {b : Byte} (h : j ≠ i) :
    Memory.read (Memory.insert m i b) j = Memory.read m j := by
  induction m with
  | nil => simp [Memory.insert, Memory.read, h]
  | cons c m ih =>
    by_cases h1 : i < c.1
    · simp [Memory.insert, h1, Memory.read, h]
    · by_cases h2 : i = c.1
      · subst h2
        simp [Memory.insert, Memory.read, h]
      · by_cases hj : j = c.1 <;> simp [Memory.insert, h1, h2, Memory.read, hj, ih]

/-- A read after a write to the same index. -/
theorem Memory.read_write_same {m : Memory} (i : Nat) (b : Byte) (hm : Memory.wf m = true) :
    Memory.read (Memory.write m i b) i = b := by
  unfold Memory.write
  split
  · rw [Memory.read_erase_same i hm, ‹b = _›]
  · exact Memory.read_insert_same m i b

/-- A write leaves every other index alone. -/
theorem Memory.read_write_other {m : Memory} {i j : Nat} (b : Byte) (h : j ≠ i) :
    Memory.read (Memory.write m i b) j = Memory.read m j := by
  unfold Memory.write
  split
  · exact Memory.read_erase_other h
  · exact Memory.read_insert_other h

end Sys2Proof.Machine
end

