-- ==== Sys2Proof/Laws/State.lean ====
section
/-! SUPPORT. For each named operation on the state, what each field is after it: true by `rfl`, or by the cases of the
operation's operand. No later proof needs to unfold a record update. -/

namespace Sys2Proof.Machine


/-! ### emit -/

@[simp] theorem emit_cfg (e : Event) (s : State) : (emit e s).cfg = s.cfg := rfl
@[simp] theorem emit_width (e : Event) (s : State) : (emit e s).width = s.width := rfl
@[simp] theorem emit_sess (e : Event) (s : State) : (emit e s).sess = s.sess := rfl
@[simp] theorem emit_seq (e : Event) (s : State) : (emit e s).seq = s.seq := rfl
@[simp] theorem emit_upc (e : Event) (s : State) : (emit e s).upc = s.upc := rfl
@[simp] theorem emit_cpOut (e : Event) (s : State) : (emit e s).cpOut = s.cpOut := rfl
@[simp] theorem emit_cpDir (e : Event) (s : State) : (emit e s).cpDir = s.cpDir := rfl
@[simp] theorem emit_bpOut (e : Event) (s : State) : (emit e s).bpOut = s.bpOut := rfl
@[simp] theorem emit_bpDir (e : Event) (s : State) : (emit e s).bpDir = s.bpDir := rfl
@[simp] theorem emit_busyf (e : Event) (s : State) : (emit e s).busyf = s.busyf := rfl
@[simp] theorem emit_errDnr (e : Event) (s : State) : (emit e s).errDnr = s.errDnr := rfl
@[simp] theorem emit_dreg (e : Event) (s : State) : (emit e s).dreg = s.dreg := rfl
@[simp] theorem emit_kind (e : Event) (s : State) : (emit e s).kind = s.kind := rfl
@[simp] theorem emit_sv1Cp (e : Event) (s : State) : (emit e s).sv1Cp = s.sv1Cp := rfl
@[simp] theorem emit_sv1Bp (e : Event) (s : State) : (emit e s).sv1Bp = s.sv1Bp := rfl
@[simp] theorem emit_sv2Cp (e : Event) (s : State) : (emit e s).sv2Cp = s.sv2Cp := rfl
@[simp] theorem emit_sv2Bp (e : Event) (s : State) : (emit e s).sv2Bp = s.sv2Bp := rfl
@[simp] theorem emit_npoll (e : Event) (s : State) : (emit e s).npoll = s.npoll := rfl
@[simp] theorem emit_cur (e : Event) (s : State) : (emit e s).cur = s.cur := rfl
@[simp] theorem emit_idx (e : Event) (s : State) : (emit e s).idx = s.idx := rfl
@[simp] theorem emit_chr (e : Event) (s : State) : (emit e s).chr = s.chr := rfl
@[simp] theorem emit_txt (e : Event) (s : State) : (emit e s).txt = s.txt := rfl
@[simp] theorem emit_answers (e : Event) (s : State) : (emit e s).answers = s.answers := rfl
@[simp] theorem emit_reads (e : Event) (s : State) : (emit e s).reads = s.reads := rfl
@[simp] theorem emit_host (e : Event) (s : State) : (emit e s).host = s.host := rfl
@[simp] theorem emit_trace (e : Event) (s : State) : (emit e s).trace = s.trace ++ [e] := rfl
@[simp] theorem emit_outcome (e : Event) (s : State) : (emit e s).outcome = s.outcome := rfl

/-! ### loadDirection -/

@[simp] theorem loadDirection_cfg (p : Port) (v : Byte) (s : State) : (loadDirection p v s).cfg = s.cfg := by cases p <;> rfl
@[simp] theorem loadDirection_width (p : Port) (v : Byte) (s : State) : (loadDirection p v s).width = s.width := by cases p <;> rfl
@[simp] theorem loadDirection_sess (p : Port) (v : Byte) (s : State) : (loadDirection p v s).sess = s.sess := by cases p <;> rfl
@[simp] theorem loadDirection_seq (p : Port) (v : Byte) (s : State) : (loadDirection p v s).seq = s.seq := by cases p <;> rfl
@[simp] theorem loadDirection_upc (p : Port) (v : Byte) (s : State) : (loadDirection p v s).upc = s.upc := by cases p <;> rfl
@[simp] theorem loadDirection_cpOut (p : Port) (v : Byte) (s : State) : (loadDirection p v s).cpOut = s.cpOut := by cases p <;> rfl
@[simp] theorem loadDirection_bpOut (p : Port) (v : Byte) (s : State) : (loadDirection p v s).bpOut = s.bpOut := by cases p <;> rfl
@[simp] theorem loadDirection_busyf (p : Port) (v : Byte) (s : State) : (loadDirection p v s).busyf = s.busyf := by cases p <;> rfl
@[simp] theorem loadDirection_errDnr (p : Port) (v : Byte) (s : State) : (loadDirection p v s).errDnr = s.errDnr := by cases p <;> rfl
@[simp] theorem loadDirection_dreg (p : Port) (v : Byte) (s : State) : (loadDirection p v s).dreg = s.dreg := by cases p <;> rfl
@[simp] theorem loadDirection_kind (p : Port) (v : Byte) (s : State) : (loadDirection p v s).kind = s.kind := by cases p <;> rfl
@[simp] theorem loadDirection_sv1Cp (p : Port) (v : Byte) (s : State) : (loadDirection p v s).sv1Cp = s.sv1Cp := by cases p <;> rfl
@[simp] theorem loadDirection_sv1Bp (p : Port) (v : Byte) (s : State) : (loadDirection p v s).sv1Bp = s.sv1Bp := by cases p <;> rfl
@[simp] theorem loadDirection_sv2Cp (p : Port) (v : Byte) (s : State) : (loadDirection p v s).sv2Cp = s.sv2Cp := by cases p <;> rfl
@[simp] theorem loadDirection_sv2Bp (p : Port) (v : Byte) (s : State) : (loadDirection p v s).sv2Bp = s.sv2Bp := by cases p <;> rfl
@[simp] theorem loadDirection_npoll (p : Port) (v : Byte) (s : State) : (loadDirection p v s).npoll = s.npoll := by cases p <;> rfl
@[simp] theorem loadDirection_cur (p : Port) (v : Byte) (s : State) : (loadDirection p v s).cur = s.cur := by cases p <;> rfl
@[simp] theorem loadDirection_idx (p : Port) (v : Byte) (s : State) : (loadDirection p v s).idx = s.idx := by cases p <;> rfl
@[simp] theorem loadDirection_chr (p : Port) (v : Byte) (s : State) : (loadDirection p v s).chr = s.chr := by cases p <;> rfl
@[simp] theorem loadDirection_txt (p : Port) (v : Byte) (s : State) : (loadDirection p v s).txt = s.txt := by cases p <;> rfl
@[simp] theorem loadDirection_answers (p : Port) (v : Byte) (s : State) : (loadDirection p v s).answers = s.answers := by cases p <;> rfl
@[simp] theorem loadDirection_reads (p : Port) (v : Byte) (s : State) : (loadDirection p v s).reads = s.reads := by cases p <;> rfl
@[simp] theorem loadDirection_host (p : Port) (v : Byte) (s : State) : (loadDirection p v s).host = s.host := by cases p <;> rfl
@[simp] theorem loadDirection_trace (p : Port) (v : Byte) (s : State) : (loadDirection p v s).trace = s.trace ++ [.dirW p v] := by cases p <;> rfl
@[simp] theorem loadDirection_outcome (p : Port) (v : Byte) (s : State) : (loadDirection p v s).outcome = s.outcome := by cases p <;> rfl

/-! ### setControl -/

@[simp] theorem setControl_cfg (l : Line) (b : Bool) (s : State) : (setControl l b s).cfg = s.cfg := rfl
@[simp] theorem setControl_width (l : Line) (b : Bool) (s : State) : (setControl l b s).width = s.width := rfl
@[simp] theorem setControl_sess (l : Line) (b : Bool) (s : State) : (setControl l b s).sess = s.sess := rfl
@[simp] theorem setControl_seq (l : Line) (b : Bool) (s : State) : (setControl l b s).seq = s.seq := rfl
@[simp] theorem setControl_upc (l : Line) (b : Bool) (s : State) : (setControl l b s).upc = s.upc := rfl
@[simp] theorem setControl_cpOut (l : Line) (b : Bool) (s : State) : (setControl l b s).cpOut = setBit s.cpOut (linePos s.cfg l) b := rfl
@[simp] theorem setControl_cpDir (l : Line) (b : Bool) (s : State) : (setControl l b s).cpDir = s.cpDir := rfl
@[simp] theorem setControl_bpOut (l : Line) (b : Bool) (s : State) : (setControl l b s).bpOut = s.bpOut := rfl
@[simp] theorem setControl_bpDir (l : Line) (b : Bool) (s : State) : (setControl l b s).bpDir = s.bpDir := rfl
@[simp] theorem setControl_busyf (l : Line) (b : Bool) (s : State) : (setControl l b s).busyf = s.busyf := rfl
@[simp] theorem setControl_errDnr (l : Line) (b : Bool) (s : State) : (setControl l b s).errDnr = s.errDnr := rfl
@[simp] theorem setControl_dreg (l : Line) (b : Bool) (s : State) : (setControl l b s).dreg = s.dreg := rfl
@[simp] theorem setControl_kind (l : Line) (b : Bool) (s : State) : (setControl l b s).kind = s.kind := rfl
@[simp] theorem setControl_sv1Cp (l : Line) (b : Bool) (s : State) : (setControl l b s).sv1Cp = s.sv1Cp := rfl
@[simp] theorem setControl_sv1Bp (l : Line) (b : Bool) (s : State) : (setControl l b s).sv1Bp = s.sv1Bp := rfl
@[simp] theorem setControl_sv2Cp (l : Line) (b : Bool) (s : State) : (setControl l b s).sv2Cp = s.sv2Cp := rfl
@[simp] theorem setControl_sv2Bp (l : Line) (b : Bool) (s : State) : (setControl l b s).sv2Bp = s.sv2Bp := rfl
@[simp] theorem setControl_npoll (l : Line) (b : Bool) (s : State) : (setControl l b s).npoll = s.npoll := rfl
@[simp] theorem setControl_cur (l : Line) (b : Bool) (s : State) : (setControl l b s).cur = s.cur := rfl
@[simp] theorem setControl_idx (l : Line) (b : Bool) (s : State) : (setControl l b s).idx = s.idx := rfl
@[simp] theorem setControl_chr (l : Line) (b : Bool) (s : State) : (setControl l b s).chr = s.chr := rfl
@[simp] theorem setControl_txt (l : Line) (b : Bool) (s : State) : (setControl l b s).txt = s.txt := rfl
@[simp] theorem setControl_answers (l : Line) (b : Bool) (s : State) : (setControl l b s).answers = s.answers := rfl
@[simp] theorem setControl_reads (l : Line) (b : Bool) (s : State) : (setControl l b s).reads = s.reads := rfl
@[simp] theorem setControl_host (l : Line) (b : Bool) (s : State) : (setControl l b s).host = s.host := rfl
@[simp] theorem setControl_trace (l : Line) (b : Bool) (s : State) : (setControl l b s).trace = s.trace ++ [.ctlW l b] := rfl
@[simp] theorem setControl_outcome (l : Line) (b : Bool) (s : State) : (setControl l b s).outcome = s.outcome := rfl

/-! ### driveBus -/

@[simp] theorem driveBus_cfg (v : Byte) (s : State) : (driveBus v s).cfg = s.cfg := rfl
@[simp] theorem driveBus_width (v : Byte) (s : State) : (driveBus v s).width = s.width := rfl
@[simp] theorem driveBus_sess (v : Byte) (s : State) : (driveBus v s).sess = s.sess := rfl
@[simp] theorem driveBus_seq (v : Byte) (s : State) : (driveBus v s).seq = s.seq := rfl
@[simp] theorem driveBus_upc (v : Byte) (s : State) : (driveBus v s).upc = s.upc := rfl
@[simp] theorem driveBus_cpOut (v : Byte) (s : State) : (driveBus v s).cpOut = s.cpOut := rfl
@[simp] theorem driveBus_cpDir (v : Byte) (s : State) : (driveBus v s).cpDir = s.cpDir := rfl
@[simp] theorem driveBus_bpOut (v : Byte) (s : State) : (driveBus v s).bpOut = v := rfl
@[simp] theorem driveBus_bpDir (v : Byte) (s : State) : (driveBus v s).bpDir = s.bpDir := rfl
@[simp] theorem driveBus_busyf (v : Byte) (s : State) : (driveBus v s).busyf = s.busyf := rfl
@[simp] theorem driveBus_errDnr (v : Byte) (s : State) : (driveBus v s).errDnr = s.errDnr := rfl
@[simp] theorem driveBus_dreg (v : Byte) (s : State) : (driveBus v s).dreg = s.dreg := rfl
@[simp] theorem driveBus_kind (v : Byte) (s : State) : (driveBus v s).kind = s.kind := rfl
@[simp] theorem driveBus_sv1Cp (v : Byte) (s : State) : (driveBus v s).sv1Cp = s.sv1Cp := rfl
@[simp] theorem driveBus_sv1Bp (v : Byte) (s : State) : (driveBus v s).sv1Bp = s.sv1Bp := rfl
@[simp] theorem driveBus_sv2Cp (v : Byte) (s : State) : (driveBus v s).sv2Cp = s.sv2Cp := rfl
@[simp] theorem driveBus_sv2Bp (v : Byte) (s : State) : (driveBus v s).sv2Bp = s.sv2Bp := rfl
@[simp] theorem driveBus_npoll (v : Byte) (s : State) : (driveBus v s).npoll = s.npoll := rfl
@[simp] theorem driveBus_cur (v : Byte) (s : State) : (driveBus v s).cur = s.cur := rfl
@[simp] theorem driveBus_idx (v : Byte) (s : State) : (driveBus v s).idx = s.idx := rfl
@[simp] theorem driveBus_chr (v : Byte) (s : State) : (driveBus v s).chr = s.chr := rfl
@[simp] theorem driveBus_txt (v : Byte) (s : State) : (driveBus v s).txt = s.txt := rfl
@[simp] theorem driveBus_answers (v : Byte) (s : State) : (driveBus v s).answers = s.answers := rfl
@[simp] theorem driveBus_reads (v : Byte) (s : State) : (driveBus v s).reads = s.reads := rfl
@[simp] theorem driveBus_host (v : Byte) (s : State) : (driveBus v s).host = s.host := rfl
@[simp] theorem driveBus_trace (v : Byte) (s : State) : (driveBus v s).trace = s.trace ++ [.busW v] := rfl
@[simp] theorem driveBus_outcome (v : Byte) (s : State) : (driveBus v s).outcome = s.outcome := rfl

/-! ### delay -/

@[simp] theorem delay_cfg (t : Nat) (s : State) : (delay t s).cfg = s.cfg := rfl
@[simp] theorem delay_width (t : Nat) (s : State) : (delay t s).width = s.width := rfl
@[simp] theorem delay_sess (t : Nat) (s : State) : (delay t s).sess = s.sess := rfl
@[simp] theorem delay_seq (t : Nat) (s : State) : (delay t s).seq = s.seq := rfl
@[simp] theorem delay_upc (t : Nat) (s : State) : (delay t s).upc = s.upc := rfl
@[simp] theorem delay_cpOut (t : Nat) (s : State) : (delay t s).cpOut = s.cpOut := rfl
@[simp] theorem delay_cpDir (t : Nat) (s : State) : (delay t s).cpDir = s.cpDir := rfl
@[simp] theorem delay_bpOut (t : Nat) (s : State) : (delay t s).bpOut = s.bpOut := rfl
@[simp] theorem delay_bpDir (t : Nat) (s : State) : (delay t s).bpDir = s.bpDir := rfl
@[simp] theorem delay_busyf (t : Nat) (s : State) : (delay t s).busyf = s.busyf := rfl
@[simp] theorem delay_errDnr (t : Nat) (s : State) : (delay t s).errDnr = s.errDnr := rfl
@[simp] theorem delay_dreg (t : Nat) (s : State) : (delay t s).dreg = s.dreg := rfl
@[simp] theorem delay_kind (t : Nat) (s : State) : (delay t s).kind = s.kind := rfl
@[simp] theorem delay_sv1Cp (t : Nat) (s : State) : (delay t s).sv1Cp = s.sv1Cp := rfl
@[simp] theorem delay_sv1Bp (t : Nat) (s : State) : (delay t s).sv1Bp = s.sv1Bp := rfl
@[simp] theorem delay_sv2Cp (t : Nat) (s : State) : (delay t s).sv2Cp = s.sv2Cp := rfl
@[simp] theorem delay_sv2Bp (t : Nat) (s : State) : (delay t s).sv2Bp = s.sv2Bp := rfl
@[simp] theorem delay_npoll (t : Nat) (s : State) : (delay t s).npoll = s.npoll := rfl
@[simp] theorem delay_cur (t : Nat) (s : State) : (delay t s).cur = s.cur := rfl
@[simp] theorem delay_idx (t : Nat) (s : State) : (delay t s).idx = s.idx := rfl
@[simp] theorem delay_chr (t : Nat) (s : State) : (delay t s).chr = s.chr := rfl
@[simp] theorem delay_txt (t : Nat) (s : State) : (delay t s).txt = s.txt := rfl
@[simp] theorem delay_answers (t : Nat) (s : State) : (delay t s).answers = s.answers := rfl
@[simp] theorem delay_reads (t : Nat) (s : State) : (delay t s).reads = s.reads := rfl
@[simp] theorem delay_host (t : Nat) (s : State) : (delay t s).host = s.host := rfl
@[simp] theorem delay_trace (t : Nat) (s : State) : (delay t s).trace = s.trace ++ [.dly t] := rfl
@[simp] theorem delay_outcome (t : Nat) (s : State) : (delay t s).outcome = s.outcome := rfl

/-! ### setDirection -/

@[simp] theorem setDirection_cfg (p : Port) (m : Byte) (o : Bool) (s : State) : (setDirection p m o s).cfg = s.cfg := by cases p <;> rfl
@[simp] theorem setDirection_width (p : Port) (m : Byte) (o : Bool) (s : State) : (setDirection p m o s).width = s.width := by cases p <;> rfl
@[simp] theorem setDirection_sess (p : Port) (m : Byte) (o : Bool) (s : State) : (setDirection p m o s).sess = s.sess := by cases p <;> rfl
@[simp] theorem setDirection_seq (p : Port) (m : Byte) (o : Bool) (s : State) : (setDirection p m o s).seq = s.seq := by cases p <;> rfl
@[simp] theorem setDirection_upc (p : Port) (m : Byte) (o : Bool) (s : State) : (setDirection p m o s).upc = s.upc := by cases p <;> rfl
@[simp] theorem setDirection_cpOut (p : Port) (m : Byte) (o : Bool) (s : State) : (setDirection p m o s).cpOut = s.cpOut := by cases p <;> rfl
@[simp] theorem setDirection_bpOut (p : Port) (m : Byte) (o : Bool) (s : State) : (setDirection p m o s).bpOut = s.bpOut := by cases p <;> rfl
@[simp] theorem setDirection_busyf (p : Port) (m : Byte) (o : Bool) (s : State) : (setDirection p m o s).busyf = s.busyf := by cases p <;> rfl
@[simp] theorem setDirection_errDnr (p : Port) (m : Byte) (o : Bool) (s : State) : (setDirection p m o s).errDnr = s.errDnr := by cases p <;> rfl
@[simp] theorem setDirection_dreg (p : Port) (m : Byte) (o : Bool) (s : State) : (setDirection p m o s).dreg = s.dreg := by cases p <;> rfl
@[simp] theorem setDirection_kind (p : Port) (m : Byte) (o : Bool) (s : State) : (setDirection p m o s).kind = s.kind := by cases p <;> rfl
@[simp] theorem setDirection_sv1Cp (p : Port) (m : Byte) (o : Bool) (s : State) : (setDirection p m o s).sv1Cp = s.sv1Cp := by cases p <;> rfl
@[simp] theorem setDirection_sv1Bp (p : Port) (m : Byte) (o : Bool) (s : State) : (setDirection p m o s).sv1Bp = s.sv1Bp := by cases p <;> rfl
@[simp] theorem setDirection_sv2Cp (p : Port) (m : Byte) (o : Bool) (s : State) : (setDirection p m o s).sv2Cp = s.sv2Cp := by cases p <;> rfl
@[simp] theorem setDirection_sv2Bp (p : Port) (m : Byte) (o : Bool) (s : State) : (setDirection p m o s).sv2Bp = s.sv2Bp := by cases p <;> rfl
@[simp] theorem setDirection_npoll (p : Port) (m : Byte) (o : Bool) (s : State) : (setDirection p m o s).npoll = s.npoll := by cases p <;> rfl
@[simp] theorem setDirection_cur (p : Port) (m : Byte) (o : Bool) (s : State) : (setDirection p m o s).cur = s.cur := by cases p <;> rfl
@[simp] theorem setDirection_idx (p : Port) (m : Byte) (o : Bool) (s : State) : (setDirection p m o s).idx = s.idx := by cases p <;> rfl
@[simp] theorem setDirection_chr (p : Port) (m : Byte) (o : Bool) (s : State) : (setDirection p m o s).chr = s.chr := by cases p <;> rfl
@[simp] theorem setDirection_txt (p : Port) (m : Byte) (o : Bool) (s : State) : (setDirection p m o s).txt = s.txt := by cases p <;> rfl
@[simp] theorem setDirection_answers (p : Port) (m : Byte) (o : Bool) (s : State) : (setDirection p m o s).answers = s.answers := by cases p <;> rfl
@[simp] theorem setDirection_reads (p : Port) (m : Byte) (o : Bool) (s : State) : (setDirection p m o s).reads = s.reads := by cases p <;> rfl
@[simp] theorem setDirection_host (p : Port) (m : Byte) (o : Bool) (s : State) : (setDirection p m o s).host = s.host := by cases p <;> rfl
@[simp] theorem setDirection_trace (p : Port) (m : Byte) (o : Bool) (s : State) : (setDirection p m o s).trace = s.trace ++ [.dirW p (maskDirection (direction s p) m o)] := by cases p <;> rfl
@[simp] theorem setDirection_outcome (p : Port) (m : Byte) (o : Bool) (s : State) : (setDirection p m o s).outcome = s.outcome := by cases p <;> rfl

/-! ### sampleBusy -/

@[simp] theorem sampleBusy_cfg (s : State) : (sampleBusy s).cfg = s.cfg := by unfold sampleBusy readBus; split <;> rfl
@[simp] theorem sampleBusy_width (s : State) : (sampleBusy s).width = s.width := by unfold sampleBusy readBus; split <;> rfl
@[simp] theorem sampleBusy_sess (s : State) : (sampleBusy s).sess = s.sess := by unfold sampleBusy readBus; split <;> rfl
@[simp] theorem sampleBusy_seq (s : State) : (sampleBusy s).seq = s.seq := by unfold sampleBusy readBus; split <;> rfl
@[simp] theorem sampleBusy_upc (s : State) : (sampleBusy s).upc = s.upc := by unfold sampleBusy readBus; split <;> rfl
@[simp] theorem sampleBusy_cpOut (s : State) : (sampleBusy s).cpOut = s.cpOut := by unfold sampleBusy readBus; split <;> rfl
@[simp] theorem sampleBusy_cpDir (s : State) : (sampleBusy s).cpDir = s.cpDir := by unfold sampleBusy readBus; split <;> rfl
@[simp] theorem sampleBusy_bpOut (s : State) : (sampleBusy s).bpOut = s.bpOut := by unfold sampleBusy readBus; split <;> rfl
@[simp] theorem sampleBusy_bpDir (s : State) : (sampleBusy s).bpDir = s.bpDir := by unfold sampleBusy readBus; split <;> rfl
@[simp] theorem sampleBusy_errDnr (s : State) : (sampleBusy s).errDnr = s.errDnr := by unfold sampleBusy readBus; split <;> rfl
@[simp] theorem sampleBusy_dreg (s : State) : (sampleBusy s).dreg = s.dreg := by unfold sampleBusy readBus; split <;> rfl
@[simp] theorem sampleBusy_kind (s : State) : (sampleBusy s).kind = s.kind := by unfold sampleBusy readBus; split <;> rfl
@[simp] theorem sampleBusy_sv1Cp (s : State) : (sampleBusy s).sv1Cp = s.sv1Cp := by unfold sampleBusy readBus; split <;> rfl
@[simp] theorem sampleBusy_sv1Bp (s : State) : (sampleBusy s).sv1Bp = s.sv1Bp := by unfold sampleBusy readBus; split <;> rfl
@[simp] theorem sampleBusy_sv2Cp (s : State) : (sampleBusy s).sv2Cp = s.sv2Cp := by unfold sampleBusy readBus; split <;> rfl
@[simp] theorem sampleBusy_sv2Bp (s : State) : (sampleBusy s).sv2Bp = s.sv2Bp := by unfold sampleBusy readBus; split <;> rfl
@[simp] theorem sampleBusy_npoll (s : State) : (sampleBusy s).npoll = s.npoll := by unfold sampleBusy readBus; split <;> rfl
@[simp] theorem sampleBusy_cur (s : State) : (sampleBusy s).cur = s.cur := by unfold sampleBusy readBus; split <;> rfl
@[simp] theorem sampleBusy_idx (s : State) : (sampleBusy s).idx = s.idx := by unfold sampleBusy readBus; split <;> rfl
@[simp] theorem sampleBusy_chr (s : State) : (sampleBusy s).chr = s.chr := by unfold sampleBusy readBus; split <;> rfl
@[simp] theorem sampleBusy_txt (s : State) : (sampleBusy s).txt = s.txt := by unfold sampleBusy readBus; split <;> rfl
@[simp] theorem sampleBusy_reads (s : State) : (sampleBusy s).reads = s.reads + 1 := by unfold sampleBusy readBus; split <;> rfl
@[simp] theorem sampleBusy_host (s : State) : (sampleBusy s).host = s.host := by unfold sampleBusy readBus; split <;> rfl
@[simp] theorem sampleBusy_outcome (s : State) : (sampleBusy s).outcome = s.outcome := by unfold sampleBusy readBus; split <;> rfl

/-! ### endCommand -/

@[simp] theorem endCommand_cfg (o : CmdOutcome) (s : State) : (endCommand o s).cfg = s.cfg := rfl
@[simp] theorem endCommand_width (o : CmdOutcome) (s : State) : (endCommand o s).width = s.width := rfl
@[simp] theorem endCommand_sess (o : CmdOutcome) (s : State) : (endCommand o s).sess = s.sess := rfl
@[simp] theorem endCommand_seq (o : CmdOutcome) (s : State) : (endCommand o s).seq = .idle := rfl
@[simp] theorem endCommand_upc (o : CmdOutcome) (s : State) : (endCommand o s).upc = [] := rfl
@[simp] theorem endCommand_cpOut (o : CmdOutcome) (s : State) : (endCommand o s).cpOut = s.cpOut := rfl
@[simp] theorem endCommand_cpDir (o : CmdOutcome) (s : State) : (endCommand o s).cpDir = s.cpDir := rfl
@[simp] theorem endCommand_bpOut (o : CmdOutcome) (s : State) : (endCommand o s).bpOut = s.bpOut := rfl
@[simp] theorem endCommand_bpDir (o : CmdOutcome) (s : State) : (endCommand o s).bpDir = s.bpDir := rfl
@[simp] theorem endCommand_busyf (o : CmdOutcome) (s : State) : (endCommand o s).busyf = s.busyf := rfl
@[simp] theorem endCommand_errDnr (o : CmdOutcome) (s : State) : (endCommand o s).errDnr = s.errDnr := rfl
@[simp] theorem endCommand_dreg (o : CmdOutcome) (s : State) : (endCommand o s).dreg = s.dreg := rfl
@[simp] theorem endCommand_kind (o : CmdOutcome) (s : State) : (endCommand o s).kind = s.kind := rfl
@[simp] theorem endCommand_sv1Cp (o : CmdOutcome) (s : State) : (endCommand o s).sv1Cp = s.sv1Cp := rfl
@[simp] theorem endCommand_sv1Bp (o : CmdOutcome) (s : State) : (endCommand o s).sv1Bp = s.sv1Bp := rfl
@[simp] theorem endCommand_sv2Cp (o : CmdOutcome) (s : State) : (endCommand o s).sv2Cp = s.sv2Cp := rfl
@[simp] theorem endCommand_sv2Bp (o : CmdOutcome) (s : State) : (endCommand o s).sv2Bp = s.sv2Bp := rfl
@[simp] theorem endCommand_npoll (o : CmdOutcome) (s : State) : (endCommand o s).npoll = s.npoll := rfl
@[simp] theorem endCommand_cur (o : CmdOutcome) (s : State) : (endCommand o s).cur = s.cur := rfl
@[simp] theorem endCommand_idx (o : CmdOutcome) (s : State) : (endCommand o s).idx = s.idx := rfl
@[simp] theorem endCommand_chr (o : CmdOutcome) (s : State) : (endCommand o s).chr = s.chr := rfl
@[simp] theorem endCommand_txt (o : CmdOutcome) (s : State) : (endCommand o s).txt = s.txt := rfl
@[simp] theorem endCommand_answers (o : CmdOutcome) (s : State) : (endCommand o s).answers = s.answers := rfl
@[simp] theorem endCommand_reads (o : CmdOutcome) (s : State) : (endCommand o s).reads = s.reads := rfl
@[simp] theorem endCommand_host (o : CmdOutcome) (s : State) : (endCommand o s).host = s.host := rfl
@[simp] theorem endCommand_trace (o : CmdOutcome) (s : State) : (endCommand o s).trace = s.trace := rfl
@[simp] theorem endCommand_outcome (o : CmdOutcome) (s : State) : (endCommand o s).outcome = some o := rfl

/-! ### suspendAt -/

@[simp] theorem suspendAt_cfg (f : List Frame) (s : State) : (suspendAt f s).cfg = s.cfg := rfl
@[simp] theorem suspendAt_width (f : List Frame) (s : State) : (suspendAt f s).width = s.width := rfl
@[simp] theorem suspendAt_sess (f : List Frame) (s : State) : (suspendAt f s).sess = s.sess := rfl
@[simp] theorem suspendAt_seq (f : List Frame) (s : State) : (suspendAt f s).seq = .running := rfl
@[simp] theorem suspendAt_upc (f : List Frame) (s : State) : (suspendAt f s).upc = f := rfl
@[simp] theorem suspendAt_cpOut (f : List Frame) (s : State) : (suspendAt f s).cpOut = s.cpOut := rfl
@[simp] theorem suspendAt_cpDir (f : List Frame) (s : State) : (suspendAt f s).cpDir = s.cpDir := rfl
@[simp] theorem suspendAt_bpOut (f : List Frame) (s : State) : (suspendAt f s).bpOut = s.bpOut := rfl
@[simp] theorem suspendAt_bpDir (f : List Frame) (s : State) : (suspendAt f s).bpDir = s.bpDir := rfl
@[simp] theorem suspendAt_busyf (f : List Frame) (s : State) : (suspendAt f s).busyf = s.busyf := rfl
@[simp] theorem suspendAt_errDnr (f : List Frame) (s : State) : (suspendAt f s).errDnr = s.errDnr := rfl
@[simp] theorem suspendAt_dreg (f : List Frame) (s : State) : (suspendAt f s).dreg = s.dreg := rfl
@[simp] theorem suspendAt_kind (f : List Frame) (s : State) : (suspendAt f s).kind = s.kind := rfl
@[simp] theorem suspendAt_sv1Cp (f : List Frame) (s : State) : (suspendAt f s).sv1Cp = s.sv1Cp := rfl
@[simp] theorem suspendAt_sv1Bp (f : List Frame) (s : State) : (suspendAt f s).sv1Bp = s.sv1Bp := rfl
@[simp] theorem suspendAt_sv2Cp (f : List Frame) (s : State) : (suspendAt f s).sv2Cp = s.sv2Cp := rfl
@[simp] theorem suspendAt_sv2Bp (f : List Frame) (s : State) : (suspendAt f s).sv2Bp = s.sv2Bp := rfl
@[simp] theorem suspendAt_npoll (f : List Frame) (s : State) : (suspendAt f s).npoll = s.npoll := rfl
@[simp] theorem suspendAt_cur (f : List Frame) (s : State) : (suspendAt f s).cur = s.cur := rfl
@[simp] theorem suspendAt_idx (f : List Frame) (s : State) : (suspendAt f s).idx = s.idx := rfl
@[simp] theorem suspendAt_chr (f : List Frame) (s : State) : (suspendAt f s).chr = s.chr := rfl
@[simp] theorem suspendAt_txt (f : List Frame) (s : State) : (suspendAt f s).txt = s.txt := rfl
@[simp] theorem suspendAt_answers (f : List Frame) (s : State) : (suspendAt f s).answers = s.answers := rfl
@[simp] theorem suspendAt_reads (f : List Frame) (s : State) : (suspendAt f s).reads = s.reads := rfl
@[simp] theorem suspendAt_host (f : List Frame) (s : State) : (suspendAt f s).host = s.host := rfl
@[simp] theorem suspendAt_trace (f : List Frame) (s : State) : (suspendAt f s).trace = s.trace := rfl
@[simp] theorem suspendAt_outcome (f : List Frame) (s : State) : (suspendAt f s).outcome = none := rfl

/-! ### presentText -/

@[simp] theorem presentText_cfg (x : Option (List Byte)) (s : State) : (presentText x s).cfg = s.cfg := by cases x <;> rfl
@[simp] theorem presentText_width (x : Option (List Byte)) (s : State) : (presentText x s).width = s.width := by cases x <;> rfl
@[simp] theorem presentText_sess (x : Option (List Byte)) (s : State) : (presentText x s).sess = s.sess := by cases x <;> rfl
@[simp] theorem presentText_seq (x : Option (List Byte)) (s : State) : (presentText x s).seq = s.seq := by cases x <;> rfl
@[simp] theorem presentText_upc (x : Option (List Byte)) (s : State) : (presentText x s).upc = s.upc := by cases x <;> rfl
@[simp] theorem presentText_cpOut (x : Option (List Byte)) (s : State) : (presentText x s).cpOut = s.cpOut := by cases x <;> rfl
@[simp] theorem presentText_cpDir (x : Option (List Byte)) (s : State) : (presentText x s).cpDir = s.cpDir := by cases x <;> rfl
@[simp] theorem presentText_bpOut (x : Option (List Byte)) (s : State) : (presentText x s).bpOut = s.bpOut := by cases x <;> rfl
@[simp] theorem presentText_bpDir (x : Option (List Byte)) (s : State) : (presentText x s).bpDir = s.bpDir := by cases x <;> rfl
@[simp] theorem presentText_busyf (x : Option (List Byte)) (s : State) : (presentText x s).busyf = s.busyf := by cases x <;> rfl
@[simp] theorem presentText_errDnr (x : Option (List Byte)) (s : State) : (presentText x s).errDnr = s.errDnr := by cases x <;> rfl
@[simp] theorem presentText_dreg (x : Option (List Byte)) (s : State) : (presentText x s).dreg = s.dreg := by cases x <;> rfl
@[simp] theorem presentText_kind (x : Option (List Byte)) (s : State) : (presentText x s).kind = s.kind := by cases x <;> rfl
@[simp] theorem presentText_sv1Cp (x : Option (List Byte)) (s : State) : (presentText x s).sv1Cp = s.sv1Cp := by cases x <;> rfl
@[simp] theorem presentText_sv1Bp (x : Option (List Byte)) (s : State) : (presentText x s).sv1Bp = s.sv1Bp := by cases x <;> rfl
@[simp] theorem presentText_sv2Cp (x : Option (List Byte)) (s : State) : (presentText x s).sv2Cp = s.sv2Cp := by cases x <;> rfl
@[simp] theorem presentText_sv2Bp (x : Option (List Byte)) (s : State) : (presentText x s).sv2Bp = s.sv2Bp := by cases x <;> rfl
@[simp] theorem presentText_npoll (x : Option (List Byte)) (s : State) : (presentText x s).npoll = s.npoll := by cases x <;> rfl
@[simp] theorem presentText_cur (x : Option (List Byte)) (s : State) : (presentText x s).cur = s.cur := by cases x <;> rfl
@[simp] theorem presentText_idx (x : Option (List Byte)) (s : State) : (presentText x s).idx = s.idx := by cases x <;> rfl
@[simp] theorem presentText_chr (x : Option (List Byte)) (s : State) : (presentText x s).chr = s.chr := by cases x <;> rfl
@[simp] theorem presentText_answers (x : Option (List Byte)) (s : State) : (presentText x s).answers = s.answers := by cases x <;> rfl
@[simp] theorem presentText_reads (x : Option (List Byte)) (s : State) : (presentText x s).reads = s.reads := by cases x <;> rfl
@[simp] theorem presentText_host (x : Option (List Byte)) (s : State) : (presentText x s).host = s.host := by cases x <;> rfl
@[simp] theorem presentText_trace (x : Option (List Byte)) (s : State) : (presentText x s).trace = s.trace := by cases x <;> rfl
@[simp] theorem presentText_outcome (x : Option (List Byte)) (s : State) : (presentText x s).outcome = s.outcome := by cases x <;> rfl

/-! ### foreignWrite -/

@[simp] theorem foreignWrite_cfg (r : PortReg) (v : Byte) (s : State) : (foreignWrite r v s).cfg = s.cfg := by cases r <;> rfl
@[simp] theorem foreignWrite_width (r : PortReg) (v : Byte) (s : State) : (foreignWrite r v s).width = s.width := by cases r <;> rfl
@[simp] theorem foreignWrite_sess (r : PortReg) (v : Byte) (s : State) : (foreignWrite r v s).sess = s.sess := by cases r <;> rfl
@[simp] theorem foreignWrite_seq (r : PortReg) (v : Byte) (s : State) : (foreignWrite r v s).seq = s.seq := by cases r <;> rfl
@[simp] theorem foreignWrite_upc (r : PortReg) (v : Byte) (s : State) : (foreignWrite r v s).upc = s.upc := by cases r <;> rfl
@[simp] theorem foreignWrite_busyf (r : PortReg) (v : Byte) (s : State) : (foreignWrite r v s).busyf = s.busyf := by cases r <;> rfl
@[simp] theorem foreignWrite_errDnr (r : PortReg) (v : Byte) (s : State) : (foreignWrite r v s).errDnr = s.errDnr := by cases r <;> rfl
@[simp] theorem foreignWrite_dreg (r : PortReg) (v : Byte) (s : State) : (foreignWrite r v s).dreg = s.dreg := by cases r <;> rfl
@[simp] theorem foreignWrite_kind (r : PortReg) (v : Byte) (s : State) : (foreignWrite r v s).kind = s.kind := by cases r <;> rfl
@[simp] theorem foreignWrite_sv1Cp (r : PortReg) (v : Byte) (s : State) : (foreignWrite r v s).sv1Cp = s.sv1Cp := by cases r <;> rfl
@[simp] theorem foreignWrite_sv1Bp (r : PortReg) (v : Byte) (s : State) : (foreignWrite r v s).sv1Bp = s.sv1Bp := by cases r <;> rfl
@[simp] theorem foreignWrite_sv2Cp (r : PortReg) (v : Byte) (s : State) : (foreignWrite r v s).sv2Cp = s.sv2Cp := by cases r <;> rfl
@[simp] theorem foreignWrite_sv2Bp (r : PortReg) (v : Byte) (s : State) : (foreignWrite r v s).sv2Bp = s.sv2Bp := by cases r <;> rfl
@[simp] theorem foreignWrite_npoll (r : PortReg) (v : Byte) (s : State) : (foreignWrite r v s).npoll = s.npoll := by cases r <;> rfl
@[simp] theorem foreignWrite_cur (r : PortReg) (v : Byte) (s : State) : (foreignWrite r v s).cur = s.cur := by cases r <;> rfl
@[simp] theorem foreignWrite_idx (r : PortReg) (v : Byte) (s : State) : (foreignWrite r v s).idx = s.idx := by cases r <;> rfl
@[simp] theorem foreignWrite_chr (r : PortReg) (v : Byte) (s : State) : (foreignWrite r v s).chr = s.chr := by cases r <;> rfl
@[simp] theorem foreignWrite_txt (r : PortReg) (v : Byte) (s : State) : (foreignWrite r v s).txt = s.txt := by cases r <;> rfl
@[simp] theorem foreignWrite_answers (r : PortReg) (v : Byte) (s : State) : (foreignWrite r v s).answers = s.answers := by cases r <;> rfl
@[simp] theorem foreignWrite_reads (r : PortReg) (v : Byte) (s : State) : (foreignWrite r v s).reads = s.reads := by cases r <;> rfl
@[simp] theorem foreignWrite_host (r : PortReg) (v : Byte) (s : State) : (foreignWrite r v s).host = s.host := by cases r <;> rfl
@[simp] theorem foreignWrite_trace (r : PortReg) (v : Byte) (s : State) : (foreignWrite r v s).trace = s.trace := by cases r <;> rfl
@[simp] theorem foreignWrite_outcome (r : PortReg) (v : Byte) (s : State) : (foreignWrite r v s).outcome = s.outcome := by cases r <;> rfl

/-! ### The fields an operand selects -/

@[simp] theorem loadDirection_cp_cpDir (v : Byte) (s : State) : (loadDirection .cp v s).cpDir = v := rfl
@[simp] theorem loadDirection_cp_bpDir (v : Byte) (s : State) : (loadDirection .cp v s).bpDir = s.bpDir := rfl
@[simp] theorem loadDirection_bp_cpDir (v : Byte) (s : State) : (loadDirection .bp v s).cpDir = s.cpDir := rfl
@[simp] theorem loadDirection_bp_bpDir (v : Byte) (s : State) : (loadDirection .bp v s).bpDir = v := rfl
@[simp] theorem setDirection_cp_cpDir (m : Byte) (o : Bool) (s : State) :
    (setDirection .cp m o s).cpDir = maskDirection s.cpDir m o := rfl
@[simp] theorem setDirection_cp_bpDir (m : Byte) (o : Bool) (s : State) :
    (setDirection .cp m o s).bpDir = s.bpDir := rfl
@[simp] theorem setDirection_bp_cpDir (m : Byte) (o : Bool) (s : State) :
    (setDirection .bp m o s).cpDir = s.cpDir := rfl
@[simp] theorem setDirection_bp_bpDir (m : Byte) (o : Bool) (s : State) :
    (setDirection .bp m o s).bpDir = maskDirection s.bpDir m o := rfl
@[simp] theorem presentText_none (s : State) : presentText none s = s := rfl
@[simp] theorem presentText_some_txt (x : List Byte) (s : State) :
    (presentText (some x) s).txt = Memory.ofBytes x := rfl

/-! ### One sample of the bus -/

theorem sampleBusy_of_answer {s : State} {v : Byte} {rest : List Byte} (h : s.answers = v :: rest) :
    sampleBusy s = { s with
      busyf := busyFlag v, answers := rest, reads := s.reads + 1, trace := s.trace ++ [.busR v] } := by
  simp [sampleBusy, readBus, h, emit]

theorem sampleBusy_of_none {s : State} (h : s.answers = []) :
    sampleBusy s = { s with
      busyf := busyFlag (Config.freeBusByte s.reads), reads := s.reads + 1,
      trace := s.trace ++ [.busR (Config.freeBusByte s.reads)] } := by
  simp [sampleBusy, readBus, h, emit]

end Sys2Proof.Machine
end

