-- ==== Sys2Proof/Laws/Procedures.lean ====
section
/-! SUPPORT. One law for each procedure run whole: everything it can come to, in the terms of Safety.lean. The poll loop,
BFW, XFER and RAWP are characterised here once, so that no proof about a command unfolds them again. -/

namespace Sys2Proof.Machine

/-! ## The wait, by its answers -/

theorem capReached_mono {c : Config} {m n : Nat} (h : m ≤ n) (hc : capReached c m = true) : capReached c n = true := by
  unfold capReached at *
  cases hp : c.pollCap with
  | none => simp [hp] at hc
  | some cap =>
    simp only [hp, decide_eq_true_eq] at hc ⊢
    omega

theorem capReached_zero (c : Config) : capReached c 0 = false := by
  unfold capReached
  cases c.pollCap with
  | none => rfl
  | some cap =>
    have := cap.2
    simp; omega

@[simp] theorem busyCount_nil : busyCount [] = 0 := rfl

theorem busyCount_cons_busy {v : Byte} {as : List Byte} (h : busyFlag v = true) :
    busyCount (v :: as) = busyCount as + 1 := by
  simp [busyCount, h]

theorem busyCount_cons_ready {v : Byte} {as : List Byte} (h : busyFlag v = false) : busyCount (v :: as) = 0 := by
  simp [busyCount, h]

theorem busyCount_le (as : List Byte) : busyCount as ≤ as.length := by
  unfold busyCount
  exact (List.takeWhile_prefix busyFlag).length_le

theorem busyCount_of_all {as : List Byte} (h : as.all busyFlag = true) : busyCount as = as.length := by
  induction as with
  | nil => rfl
  | cons v as ih =>
    simp only [List.all_cons, Bool.and_eq_true] at h
    rw [busyCount_cons_busy h.1, ih h.2, List.length_cons]

/-- A wait returns, faults or is pending, and only one of the three. -/
theorem wait_trichotomy (c : Config) (as : List Byte) :
    (waitReturns c as = true ∧ waitFaults c as = false) ∨
    (waitPending c as = true ∧ waitFaults c as = false) ∨ waitFaults c as = true := by
  unfold waitReturns waitPending
  cases waitFaults c as with
  | true => simp
  | false =>
    by_cases h : as.all busyFlag = true
    · simp [h]
    · simp only [Bool.not_false, Bool.true_and]
      left
      simpa using h

/-! ## The poll loop -/

/-- The state after polls that take these samples, each from the listed answers. -/
def polled (samples : List Byte) (s : State) : State :=
  { s with
    cpOut := if samples.isEmpty then s.cpOut else setBit s.cpOut s.cfg.pins.enBit false
    busyf := (samples.getLast?.map busyFlag).getD s.busyf
    npoll := s.npoll + samples.length
    answers := s.answers.drop samples.length
    reads := s.reads + samples.length
    trace := s.trace ++ pollEvents samples }

theorem polled_nil (s : State) : polled [] s = s := by
  simp [polled, pollEvents]

theorem pollOnce_eq {s : State} {v : Byte} {rest : List Byte} (h : s.answers = v :: rest) :
    pollOnce s = { s with
      cpOut := setBit s.cpOut s.cfg.pins.enBit false
      busyf := busyFlag v
      npoll := s.npoll + 1
      answers := rest
      reads := s.reads + 1
      trace := s.trace ++ [.ctlW .en true, .busR v, .ctlW .en false] } := by
  have h' : (setControl .en true s).answers = v :: rest := by simpa using h
  simp only [pollOnce, sampleBusy_of_answer h']
  simp [setControl, emit, linePos, setBit_setBit_same]

theorem pollOnce_cfg (s : State) : (pollOnce s).cfg = s.cfg := by simp [pollOnce]

theorem pollOnce_npoll (s : State) : (pollOnce s).npoll = s.npoll + 1 := by simp [pollOnce]

theorem polled_cons {s : State} {v : Byte} {rest vs : List Byte} (h : s.answers = v :: rest) :
    polled (v :: vs) s = polled vs (pollOnce s) := by
  rw [pollOnce_eq h]
  cases vs with
  | nil => simp [polled, pollEvents, h]
  | cons w ws =>
    have hl : (w :: ws).getLast? = some ((w :: ws).getLast (List.cons_ne_nil w ws)) :=
      List.getLast?_eq_some_getLast (List.cons_ne_nil w ws)
    simp [polled, pollEvents, h, setBit_setBit_same, List.getLast?_cons_cons, hl, Nat.add_assoc, Nat.add_comm 1]

theorem pollLoop_returns {callers : List Frame} {as : List Byte} {s : State} (h : s.answers = as)
    (hany : as.any (fun v => !busyFlag v) = true) (hcap : capReached s.cfg (s.npoll + busyCount as) = false) :
    pollLoop callers as s = .done (bfwLeave (polled (waitReads as) s)) := by
  induction as generalizing s with
  | nil => simp at hany
  | cons v as ih =>
    have hp := pollOnce_eq h
    cases hv : busyFlag v with
    | false =>
      have hb : (pollOnce s).busyf = false := by rw [hp]; exact hv
      simp [pollLoop, hb, waitReads, busyCount_cons_ready hv, polled_cons h, polled_nil]
    | true =>
      have hb : (pollOnce s).busyf = true := by rw [hp]; exact hv
      rw [busyCount_cons_busy hv] at hcap
      have hcap' : capReached (pollOnce s).cfg (pollOnce s).npoll = false := by
        rw [pollOnce_cfg, pollOnce_npoll]
        by_contra hc
        rw [Bool.not_eq_false] at hc
        rw [capReached_mono (by omega) hc] at hcap
        exact Bool.noConfusion hcap
      simp only [List.any_cons, hv, Bool.not_true, Bool.false_or] at hany
      have hrest := ih (s := pollOnce s) (by rw [hp]) hany (by
        rw [hp]
        simpa [Nat.add_assoc, Nat.add_comm 1] using hcap)
      simp only [pollLoop, hb, hcap', if_true, Bool.false_eq_true, if_false, hrest]
      simp only [waitReads, busyCount_cons_busy hv, List.take_succ_cons]
      rw [polled_cons h]

theorem pollLoop_pending {callers : List Frame} {as : List Byte} {s : State} (h : s.answers = as)
    (hall : as.all busyFlag = true) (hcap : capReached s.cfg (s.npoll + as.length) = false) :
    pollLoop callers as s = .halted (suspendAt (.bfw .b7 :: callers) (polled as s)) := by
  induction as generalizing s with
  | nil => simp [pollLoop, polled_nil]
  | cons v as ih =>
    have hp := pollOnce_eq h
    simp only [List.all_cons, Bool.and_eq_true] at hall
    have hb : (pollOnce s).busyf = true := by rw [hp]; exact hall.1
    have hcap' : capReached (pollOnce s).cfg (pollOnce s).npoll = false := by
      rw [pollOnce_cfg, pollOnce_npoll]
      by_contra hc
      rw [Bool.not_eq_false] at hc
      rw [capReached_mono (by simp) hc] at hcap
      exact Bool.noConfusion hcap
    have hrest := ih (s := pollOnce s) (by rw [hp]) hall.2 (by
      rw [hp]
      simpa [Nat.add_assoc, Nat.add_comm 1] using hcap)
    simp only [pollLoop, hb, hcap', if_true, Bool.false_eq_true, if_false, hrest, polled_cons h]

theorem pollLoop_faults {callers : List Frame} {as : List Byte} {s : State} {cap : { c : Nat // 0 < c }}
    (h : s.answers = as) (hc : s.cfg.pollCap = some cap) (hlt : s.npoll < cap.val)
    (hle : cap.val ≤ s.npoll + busyCount as) :
    pollLoop callers as s = .halted (raiseDeviceNotResponding (polled (as.take (cap.val - s.npoll)) s)) := by
  induction as generalizing s with
  | nil => simp at hle; omega
  | cons v as ih =>
    have hp := pollOnce_eq h
    cases hv : busyFlag v with
    | false => rw [busyCount_cons_ready hv] at hle; omega
    | true =>
      have hb : (pollOnce s).busyf = true := by rw [hp]; exact hv
      rw [busyCount_cons_busy hv] at hle
      have htake : cap.val - s.npoll = cap.val - (s.npoll + 1) + 1 := by omega
      rw [htake, List.take_succ_cons, polled_cons h]
      by_cases hlast : cap.val ≤ s.npoll + 1
      · have hcap : capReached (pollOnce s).cfg (pollOnce s).npoll = true := by
          rw [hp]; simp [capReached, hc, hlast]
        have hz : cap.val - (s.npoll + 1) = 0 := by omega
        simp [pollLoop, hb, hcap, hz, polled_nil]
      · have hcap : capReached (pollOnce s).cfg (pollOnce s).npoll = false := by
          rw [hp]; simp [capReached, hc]; omega
        have hrest := ih (s := pollOnce s) (by rw [hp]) (by rw [hp]; exact hc) (by rw [hp]; simp; omega)
          (by rw [hp]; simp; omega)
        have hn : (pollOnce s).npoll = s.npoll + 1 := by rw [hp]
        rw [hn] at hrest
        simp only [pollLoop, hb, hcap, if_true, Bool.false_eq_true, if_false, hrest]

/-! ## The Transfer Engine -/

theorem openPorts_eq (s : State) : openPorts s =
    { s with
      sv1Cp := s.cpDir, sv1Bp := s.bpDir, cpDir := 0xFF, bpDir := 0xFF
      trace := s.trace ++ [.dirW .cp 0xFF, .dirW .bp 0xFF] } := by
  simp [openPorts, setDirection, loadDirection, direction, emit]

theorem closePorts_eq (s : State) : closePorts s =
    { s with
      cpDir := s.sv1Cp, bpDir := s.sv1Bp
      trace := s.trace ++ [.dirW .cp s.sv1Cp, .dirW .bp s.sv1Bp] } := by
  simp [closePorts, loadDirection, emit]

theorem bfwLeave_eq (s : State) : bfwLeave s =
    { s with
      cpDir := s.sv2Cp, bpDir := s.sv2Bp
      trace := s.trace ++ [.dly 1, .dirW .cp s.sv2Cp, .dirW .bp s.sv2Bp] } := by
  simp [bfwLeave, loadDirection, delay, emit, Config.tBfm]

theorem bfwEnter_eq (s : State) : bfwEnter s =
    { s with
      sv2Cp := s.cpDir, sv2Bp := s.bpDir, bpDir := s.bpDir &&& 0x7F
      cpOut := setBit (setBit s.cpOut s.cfg.pins.rsBit false) s.cfg.pins.rwBit true
      npoll := 0
      trace := s.trace ++ bfwEnterEvents s.bpDir } := by
  simp [bfwEnter, setDirection, loadDirection, direction, setControl, emit, bfwEnterEvents, maskDirection_input,
    linePos]

/-- The entry of the fault, in one update (spec/60_exceptions.md R132). -/
theorem raiseDeviceNotResponding_eq (s : State) : raiseDeviceNotResponding s =
    { s with
      cpDir := s.sv1Cp, bpDir := s.sv1Bp, errDnr := true, seq := .idle, upc := []
      outcome := some .deviceNotResponding
      trace := s.trace ++
        [.dirW .cp s.sv2Cp, .dirW .bp s.sv2Bp, .dirW .cp s.sv1Cp, .dirW .bp s.sv1Bp] } := by
  simp [raiseDeviceNotResponding, loadDirection, endCommand, emit]

/-- XFER from its first step to the entry of the poll loop, in the width the transfer uses. -/
theorem xfer_open_eight {kind : Bool} {b : Byte} {s : State} (hw : s.width = .eight) :
    bfwEnter (eightBitStrobe (openPorts { s with dreg := b, kind := kind })) = inWait kind b [] s := by
  rw [bfwEnter_eq, openPorts_eq]
  cases he : s.cfg.en8Release <;>
    simp [eightBitStrobe, he, hw, inWait, setControl, driveBus, emit, linePos, xferOpenEvents, strobeEvents,
      lastDriven, enAtWait, pollEvents, withLines, setBit_setBit_same, setBit_comm _ (Pins.rs_ne_en s.cfg.pins).symm,
      setBit_comm _ (Pins.rw_ne_en s.cfg.pins).symm, setBit_comm _ (Pins.rs_ne_rw s.cfg.pins).symm]

theorem xfer_open_four {kind : Bool} {b : Byte} {s : State} (hw : s.width = .four) :
    bfwEnter (fourBitStrobes (openPorts { s with dreg := b, kind := kind })) = inWait kind b [] s := by
  rw [bfwEnter_eq, openPorts_eq]
  simp [fourBitStrobes, nibblePulse, hw, inWait, setControl, driveBus, delay, emit, linePos, xferOpenEvents,
    strobeEvents, lastDriven, enAtWait, pollEvents, withLines, highNibble, lowNibble, setBit_setBit_same,
    setBit_comm _ (Pins.rs_ne_en s.cfg.pins).symm, setBit_comm _ (Pins.rw_ne_en s.cfg.pins).symm,
    setBit_comm _ (Pins.rs_ne_rw s.cfg.pins).symm]

theorem polled_inWait (kind : Bool) (b : Byte) (samples : List Byte) (s : State) :
    polled samples (inWait kind b [] s) = inWait kind b samples s := by
  cases samples with
  | nil => rw [polled_nil]
  | cons v vs => simp [polled, inWait, pollEvents]

/-- XFER with WIDTH Unset is refused (R101). -/
theorem xfer_unset {callers : List Frame} {kind : Bool} {b : Byte} {s : State} (hw : s.width = .unset) :
    xfer callers kind b s = .refused .useBeforeInit := by
  simp [xfer, hw]

/-- XFER with a width is the poll loop from `inWait`, then the directions restored. -/
theorem xfer_eq_poll {callers : List Frame} {kind : Bool} {b : Byte} {s : State} (hw : s.width ≠ .unset) :
    xfer callers kind b s =
      (pollLoop (.xfer kind b .x8 :: callers) s.answers (inWait kind b [] s)).andThen
        fun s => .done (closePorts s) := by
  simp only [xfer]
  split
  · exact absurd ‹_› hw
  · simp only [bfw, xfer_open_eight (s := s) ‹_›]
    rfl
  · simp only [bfw, xfer_open_four (s := s) ‹_›]
    rfl

theorem closed_inWait {kind : Bool} {b : Byte} {s : State}
    (h : s.answers.any (fun v => !busyFlag v) = true) :
    closePorts (bfwLeave (inWait kind b (waitReads s.answers) s)) = afterTransfer kind b s := by
  have hlen : (waitReads s.answers).length = busyCount s.answers + 1 ∧
      ((waitReads s.answers).getLast?.map busyFlag) = some false := by
    revert h
    generalize s.answers = as
    intro h
    induction as with
    | nil => simp at h
    | cons v as ih =>
      cases hv : busyFlag v with
      | false => simp [waitReads, busyCount_cons_ready hv, hv]
      | true =>
        simp only [List.any_cons, hv, Bool.not_true, Bool.false_or] at h
        obtain ⟨hl, hf⟩ := ih h
        simp only [waitReads, busyCount_cons_busy hv, List.take_succ_cons, List.length_cons] at *
        refine ⟨by rw [hl], ?_⟩
        cases ht : List.take (busyCount as + 1) as with
        | nil => simp [ht] at hf
        | cons w ws => rw [List.getLast?_cons_cons, ← ht]; exact hf
  obtain ⟨hl, hf⟩ := hlen
  have hne : (waitReads s.answers).isEmpty = false := by
    cases hr : waitReads s.answers with
    | nil => simp [hr] at hl
    | cons => rfl
  rw [closePorts_eq, bfwLeave_eq]
  simp [inWait, afterTransfer, hl, hf, hne, waitRest, xferEvents, xferOpenEvents, bfwEvents]

/-- XFER whose wait returns: Done, with every field as `afterTransfer` says (R92, R99, R103). -/
theorem xfer_returns {callers : List Frame} {kind : Bool} {b : Byte} {s : State} (hw : s.width ≠ .unset)
    (h : waitReturns s.cfg s.answers = true) : xfer callers kind b s = .done (afterTransfer kind b s) := by
  simp only [waitReturns, waitFaults, Bool.and_eq_true, Bool.not_eq_true'] at h
  rw [xfer_eq_poll hw, pollLoop_returns (by simp [inWait]) h.2 (by simpa [inWait] using h.1), polled_inWait]
  simp only [Flow.andThen, closed_inWait h.2]

/-- XFER whose wait no listed answer ends: the command stays Running at step B7 (R87). -/
theorem xfer_pending {callers : List Frame} {kind : Bool} {b : Byte} {s : State} (hw : s.width ≠ .unset)
    (h : waitPending s.cfg s.answers = true) :
    xfer callers kind b s =
      .halted (suspendAt (.bfw .b7 :: .xfer kind b .x8 :: callers) (inWait kind b s.answers s)) := by
  simp only [waitPending, waitFaults, Bool.and_eq_true, Bool.not_eq_true'] at h
  have hcap := h.1
  rw [busyCount_of_all h.2] at hcap
  rw [xfer_eq_poll hw, pollLoop_pending (by simp [inWait]) h.2 (by simpa [inWait] using hcap), polled_inWait]
  rfl

/-- XFER whose wait the cap cuts: DeviceNotResponding (R125, R132). -/
theorem xfer_faults {callers : List Frame} {kind : Bool} {b : Byte} {s : State} {cap : { c : Nat // 0 < c }}
    (hw : s.width ≠ .unset) (hc : s.cfg.pollCap = some cap) (h : waitFaults s.cfg s.answers = true) :
    xfer callers kind b s =
      .halted (raiseDeviceNotResponding (inWait kind b (s.answers.take cap.val) s)) := by
  have hle : cap.val ≤ busyCount s.answers := by simpa [waitFaults, capReached, hc] using h
  have hz : (inWait kind b [] s).npoll = 0 := rfl
  rw [xfer_eq_poll hw, pollLoop_faults (s := inWait kind b [] s) (cap := cap) (by simp [inWait]) hc (by rw [hz]; exact cap.2)
    (by rw [hz]; omega), polled_inWait, hz]
  rfl

/-- A wait that faults has a cap. -/
theorem cap_of_waitFaults {c : Config} {as : List Byte} (h : waitFaults c as = true) :
    ∃ cap, c.pollCap = some cap := by
  unfold waitFaults capReached at h
  cases hc : c.pollCap with
  | none => simp [hc] at h
  | some cap => exact ⟨cap, rfl⟩

/-- Everything XFER can come to (the inversion of `xfer`). -/
theorem xfer_cases (callers : List Frame) (kind : Bool) (b : Byte) (s : State) :
    (s.width = .unset ∧ xfer callers kind b s = .refused .useBeforeInit) ∨
    (s.width ≠ .unset ∧ waitReturns s.cfg s.answers = true ∧
      xfer callers kind b s = .done (afterTransfer kind b s)) ∨
    (s.width ≠ .unset ∧ waitPending s.cfg s.answers = true ∧
      xfer callers kind b s =
        .halted (suspendAt (.bfw .b7 :: .xfer kind b .x8 :: callers) (inWait kind b s.answers s))) ∨
    (s.width ≠ .unset ∧ ∃ cap, s.cfg.pollCap = some cap ∧ waitFaults s.cfg s.answers = true ∧
      xfer callers kind b s =
        .halted (raiseDeviceNotResponding (inWait kind b (s.answers.take cap.val) s))) := by
  by_cases hw : s.width = .unset
  · exact .inl ⟨hw, xfer_unset hw⟩
  · obtain ⟨h, -⟩ | ⟨h, -⟩ | h := wait_trichotomy s.cfg s.answers
    · exact .inr (.inl ⟨hw, h, xfer_returns hw h⟩)
    · exact .inr (.inr (.inl ⟨hw, h, xfer_pending hw h⟩))
    · obtain ⟨cap, hc⟩ := cap_of_waitFaults h
      exact .inr (.inr (.inr ⟨hw, cap, hc, h, xfer_faults hw hc h⟩))

/-! ## The raw pulse -/

/-- RAWP leaves every field as `afterRawPulse` says (R105, R34). -/
theorem rawPulse_eq (v : Byte) (t : Nat) (s : State) : rawPulse v t s = afterRawPulse v t s := by
  simp only [rawPulse, openPorts_eq, closePorts_eq]
  simp [afterRawPulse, setControl, driveBus, delay, emit, linePos, rawPulseEvents, withLines, setBit_setBit_same,
    setBit_comm _ (Pins.rs_ne_en s.cfg.pins).symm, setBit_comm _ (Pins.rw_ne_en s.cfg.pins).symm]

/-- Steps I2 to I8 of INIT, in the terms of `afterRawPulse`. -/
theorem initPulses_eq (w : Nat) (width : BusWidth) (s : State) :
    { initPulses w s with width := width } = afterInitPulses w width s := by
  simp only [initPulses, afterInitPulses, rawPulse_eq, delay, emit]

end Sys2Proof.Machine
end

