-- ==== Sys2Proof/Laws/Outcomes.lean ====
section
/-! SUPPORT. What the states that procedures leave have in common with the state they began in: one lemma per field, and the
laws of `Flow`. -/

namespace Sys2Proof.Machine

/-! ### Flow -/

@[simp] theorem Flow.done_andThen (s : State) (k : State → Flow) : (Flow.done s).andThen k = k s := rfl
@[simp] theorem Flow.halted_andThen (s : State) (k : State → Flow) : (Flow.halted s).andThen k = .halted s := rfl
@[simp] theorem Flow.refused_andThen (r : Refusal) (k : State → Flow) : (Flow.refused r).andThen k = .refused r := rfl
@[simp] theorem Flow.done_toOutcome (s : State) : (Flow.done s).toOutcome = .next (endCommand .done s) := rfl
@[simp] theorem Flow.halted_toOutcome (s : State) : (Flow.halted s).toOutcome = .next s := rfl
@[simp] theorem Flow.refused_toOutcome (r : Refusal) : (Flow.refused r).toOutcome = .refused r := rfl

theorem Flow.andThen_assoc (f : Flow) (k l : State → Flow) :
    (f.andThen k).andThen l = f.andThen fun s => (k s).andThen l := by
  cases f <;> rfl

/-! ### afterTransfer -/

@[simp] theorem afterTransfer_cfg (kind : Bool) (b : Byte) (s : State) : (afterTransfer kind b s).cfg = s.cfg := rfl
@[simp] theorem afterTransfer_width (kind : Bool) (b : Byte) (s : State) : (afterTransfer kind b s).width = s.width := rfl
@[simp] theorem afterTransfer_sess (kind : Bool) (b : Byte) (s : State) : (afterTransfer kind b s).sess = s.sess := rfl
@[simp] theorem afterTransfer_seq (kind : Bool) (b : Byte) (s : State) : (afterTransfer kind b s).seq = s.seq := rfl
@[simp] theorem afterTransfer_upc (kind : Bool) (b : Byte) (s : State) : (afterTransfer kind b s).upc = s.upc := rfl
@[simp] theorem afterTransfer_errDnr (kind : Bool) (b : Byte) (s : State) : (afterTransfer kind b s).errDnr = s.errDnr := rfl
@[simp] theorem afterTransfer_cur (kind : Bool) (b : Byte) (s : State) : (afterTransfer kind b s).cur = s.cur := rfl
@[simp] theorem afterTransfer_idx (kind : Bool) (b : Byte) (s : State) : (afterTransfer kind b s).idx = s.idx := rfl
@[simp] theorem afterTransfer_chr (kind : Bool) (b : Byte) (s : State) : (afterTransfer kind b s).chr = s.chr := rfl
@[simp] theorem afterTransfer_txt (kind : Bool) (b : Byte) (s : State) : (afterTransfer kind b s).txt = s.txt := rfl
@[simp] theorem afterTransfer_host (kind : Bool) (b : Byte) (s : State) : (afterTransfer kind b s).host = s.host := rfl
@[simp] theorem afterTransfer_outcome (kind : Bool) (b : Byte) (s : State) : (afterTransfer kind b s).outcome = s.outcome := rfl
@[simp] theorem afterTransfer_cpDir (kind : Bool) (b : Byte) (s : State) : (afterTransfer kind b s).cpDir = s.cpDir := rfl
@[simp] theorem afterTransfer_bpDir (kind : Bool) (b : Byte) (s : State) : (afterTransfer kind b s).bpDir = s.bpDir := rfl

/-! ### inWait -/

@[simp] theorem inWait_cfg (kind : Bool) (b : Byte) (samples : List Byte) (s : State) : (inWait kind b samples s).cfg = s.cfg := rfl
@[simp] theorem inWait_width (kind : Bool) (b : Byte) (samples : List Byte) (s : State) : (inWait kind b samples s).width = s.width := rfl
@[simp] theorem inWait_sess (kind : Bool) (b : Byte) (samples : List Byte) (s : State) : (inWait kind b samples s).sess = s.sess := rfl
@[simp] theorem inWait_seq (kind : Bool) (b : Byte) (samples : List Byte) (s : State) : (inWait kind b samples s).seq = s.seq := rfl
@[simp] theorem inWait_upc (kind : Bool) (b : Byte) (samples : List Byte) (s : State) : (inWait kind b samples s).upc = s.upc := rfl
@[simp] theorem inWait_errDnr (kind : Bool) (b : Byte) (samples : List Byte) (s : State) : (inWait kind b samples s).errDnr = s.errDnr := rfl
@[simp] theorem inWait_cur (kind : Bool) (b : Byte) (samples : List Byte) (s : State) : (inWait kind b samples s).cur = s.cur := rfl
@[simp] theorem inWait_idx (kind : Bool) (b : Byte) (samples : List Byte) (s : State) : (inWait kind b samples s).idx = s.idx := rfl
@[simp] theorem inWait_chr (kind : Bool) (b : Byte) (samples : List Byte) (s : State) : (inWait kind b samples s).chr = s.chr := rfl
@[simp] theorem inWait_txt (kind : Bool) (b : Byte) (samples : List Byte) (s : State) : (inWait kind b samples s).txt = s.txt := rfl
@[simp] theorem inWait_host (kind : Bool) (b : Byte) (samples : List Byte) (s : State) : (inWait kind b samples s).host = s.host := rfl
@[simp] theorem inWait_outcome (kind : Bool) (b : Byte) (samples : List Byte) (s : State) : (inWait kind b samples s).outcome = s.outcome := rfl

/-! ### afterRawPulse -/

@[simp] theorem afterRawPulse_cfg (v : Byte) (t : Nat) (s : State) : (afterRawPulse v t s).cfg = s.cfg := rfl
@[simp] theorem afterRawPulse_width (v : Byte) (t : Nat) (s : State) : (afterRawPulse v t s).width = s.width := rfl
@[simp] theorem afterRawPulse_sess (v : Byte) (t : Nat) (s : State) : (afterRawPulse v t s).sess = s.sess := rfl
@[simp] theorem afterRawPulse_seq (v : Byte) (t : Nat) (s : State) : (afterRawPulse v t s).seq = s.seq := rfl
@[simp] theorem afterRawPulse_upc (v : Byte) (t : Nat) (s : State) : (afterRawPulse v t s).upc = s.upc := rfl
@[simp] theorem afterRawPulse_errDnr (v : Byte) (t : Nat) (s : State) : (afterRawPulse v t s).errDnr = s.errDnr := rfl
@[simp] theorem afterRawPulse_cur (v : Byte) (t : Nat) (s : State) : (afterRawPulse v t s).cur = s.cur := rfl
@[simp] theorem afterRawPulse_idx (v : Byte) (t : Nat) (s : State) : (afterRawPulse v t s).idx = s.idx := rfl
@[simp] theorem afterRawPulse_chr (v : Byte) (t : Nat) (s : State) : (afterRawPulse v t s).chr = s.chr := rfl
@[simp] theorem afterRawPulse_txt (v : Byte) (t : Nat) (s : State) : (afterRawPulse v t s).txt = s.txt := rfl
@[simp] theorem afterRawPulse_host (v : Byte) (t : Nat) (s : State) : (afterRawPulse v t s).host = s.host := rfl
@[simp] theorem afterRawPulse_outcome (v : Byte) (t : Nat) (s : State) : (afterRawPulse v t s).outcome = s.outcome := rfl
@[simp] theorem afterRawPulse_cpDir (v : Byte) (t : Nat) (s : State) : (afterRawPulse v t s).cpDir = s.cpDir := rfl
@[simp] theorem afterRawPulse_bpDir (v : Byte) (t : Nat) (s : State) : (afterRawPulse v t s).bpDir = s.bpDir := rfl
@[simp] theorem afterRawPulse_busyf (v : Byte) (t : Nat) (s : State) : (afterRawPulse v t s).busyf = s.busyf := rfl
@[simp] theorem afterRawPulse_dreg (v : Byte) (t : Nat) (s : State) : (afterRawPulse v t s).dreg = s.dreg := rfl
@[simp] theorem afterRawPulse_kind (v : Byte) (t : Nat) (s : State) : (afterRawPulse v t s).kind = s.kind := rfl
@[simp] theorem afterRawPulse_sv2Cp (v : Byte) (t : Nat) (s : State) : (afterRawPulse v t s).sv2Cp = s.sv2Cp := rfl
@[simp] theorem afterRawPulse_sv2Bp (v : Byte) (t : Nat) (s : State) : (afterRawPulse v t s).sv2Bp = s.sv2Bp := rfl
@[simp] theorem afterRawPulse_npoll (v : Byte) (t : Nat) (s : State) : (afterRawPulse v t s).npoll = s.npoll := rfl
@[simp] theorem afterRawPulse_answers (v : Byte) (t : Nat) (s : State) : (afterRawPulse v t s).answers = s.answers := rfl
@[simp] theorem afterRawPulse_reads (v : Byte) (t : Nat) (s : State) : (afterRawPulse v t s).reads = s.reads := rfl

@[simp] theorem afterTransfer_answers (kind : Bool) (b : Byte) (s : State) :
    (afterTransfer kind b s).answers = waitRest s.answers := rfl

@[simp] theorem afterTransfer_trace (kind : Bool) (b : Byte) (s : State) : (afterTransfer kind b s).trace =
    s.trace ++ xferEvents s.cfg s.width kind b s.cpDir s.bpDir (waitReads s.answers) := rfl

/-! ### afterTransfers -/

@[simp] theorem afterTransfers_nil (s : State) : afterTransfers [] s = s := rfl
@[simp] theorem afterTransfers_cons (kind : Bool) (b : Byte) (rest : List (Bool × Byte)) (s : State) :
    afterTransfers ((kind, b) :: rest) s = afterTransfers rest (afterTransfer kind b s) := rfl

@[simp] theorem afterTransfers_cfg (l : List (Bool × Byte)) (s : State) : (afterTransfers l s).cfg = s.cfg := by
  induction l generalizing s with
  | nil => rfl
  | cons x l ih => exact ih _
@[simp] theorem afterTransfers_width (l : List (Bool × Byte)) (s : State) : (afterTransfers l s).width = s.width := by
  induction l generalizing s with
  | nil => rfl
  | cons x l ih => exact ih _
@[simp] theorem afterTransfers_sess (l : List (Bool × Byte)) (s : State) : (afterTransfers l s).sess = s.sess := by
  induction l generalizing s with
  | nil => rfl
  | cons x l ih => exact ih _
@[simp] theorem afterTransfers_seq (l : List (Bool × Byte)) (s : State) : (afterTransfers l s).seq = s.seq := by
  induction l generalizing s with
  | nil => rfl
  | cons x l ih => exact ih _
@[simp] theorem afterTransfers_upc (l : List (Bool × Byte)) (s : State) : (afterTransfers l s).upc = s.upc := by
  induction l generalizing s with
  | nil => rfl
  | cons x l ih => exact ih _
@[simp] theorem afterTransfers_errDnr (l : List (Bool × Byte)) (s : State) : (afterTransfers l s).errDnr = s.errDnr := by
  induction l generalizing s with
  | nil => rfl
  | cons x l ih => exact ih _
@[simp] theorem afterTransfers_cur (l : List (Bool × Byte)) (s : State) : (afterTransfers l s).cur = s.cur := by
  induction l generalizing s with
  | nil => rfl
  | cons x l ih => exact ih _
@[simp] theorem afterTransfers_idx (l : List (Bool × Byte)) (s : State) : (afterTransfers l s).idx = s.idx := by
  induction l generalizing s with
  | nil => rfl
  | cons x l ih => exact ih _
@[simp] theorem afterTransfers_chr (l : List (Bool × Byte)) (s : State) : (afterTransfers l s).chr = s.chr := by
  induction l generalizing s with
  | nil => rfl
  | cons x l ih => exact ih _
@[simp] theorem afterTransfers_txt (l : List (Bool × Byte)) (s : State) : (afterTransfers l s).txt = s.txt := by
  induction l generalizing s with
  | nil => rfl
  | cons x l ih => exact ih _
@[simp] theorem afterTransfers_host (l : List (Bool × Byte)) (s : State) : (afterTransfers l s).host = s.host := by
  induction l generalizing s with
  | nil => rfl
  | cons x l ih => exact ih _
@[simp] theorem afterTransfers_outcome (l : List (Bool × Byte)) (s : State) : (afterTransfers l s).outcome = s.outcome := by
  induction l generalizing s with
  | nil => rfl
  | cons x l ih => exact ih _
@[simp] theorem afterTransfers_cpDir (l : List (Bool × Byte)) (s : State) : (afterTransfers l s).cpDir = s.cpDir := by
  induction l generalizing s with
  | nil => rfl
  | cons x l ih => exact ih _
@[simp] theorem afterTransfers_bpDir (l : List (Bool × Byte)) (s : State) : (afterTransfers l s).bpDir = s.bpDir := by
  induction l generalizing s with
  | nil => rfl
  | cons x l ih => exact ih _

@[simp] theorem afterTransfers_answers (l : List (Bool × Byte)) (s : State) :
    (afterTransfers l s).answers = restAfter l.length s.answers := by
  induction l generalizing s with
  | nil => rfl
  | cons x l ih => exact ih _

/-! ### The events of transfers in a row -/

/-- Transfers in a row split anywhere, the answers with them. -/
theorem transferEvents_append (cfg : Config) (width : BusWidth) (c d : Byte) (l r : List (Bool × Byte))
    (answers : List Byte) : transferEvents cfg width c d (l ++ r) answers =
      transferEvents cfg width c d l answers ++ transferEvents cfg width c d r (restAfter l.length answers) := by
  induction l generalizing answers with
  | nil => rfl
  | cons x l ih => simp [transferEvents, restAfter, ih]

/-- Transfers in a row, each Done, append their events to the trace. -/
theorem afterTransfers_trace (l : List (Bool × Byte)) (s : State) : (afterTransfers l s).trace =
    s.trace ++ transferEvents s.cfg s.width s.cpDir s.bpDir l s.answers := by
  induction l generalizing s with
  | nil => simp [transferEvents]
  | cons x l ih =>
    obtain ⟨kind, b⟩ := x
    simp [transferEvents, ih]

/-- Transfers of cells in a row split where the cells do. -/
theorem cellTransfers_append (c : Config) (l r : List (DdramAddr × Byte)) :
    cellTransfers c (l ++ r) = cellTransfers c l ++ cellTransfers c r := by
  simp [cellTransfers]

/-- The bus writes of two lists of events in a row. -/
@[simp] theorem busWrites_append (l r : List Event) : busWrites (l ++ r) = busWrites l ++ busWrites r := by
  induction l with
  | nil => rfl
  | cons e l ih => cases e <;> simp [busWrites, ih]

/-- A poll drives nothing onto the bus. -/
@[simp] theorem busWrites_pollEvents (samples : List Byte) : busWrites (pollEvents samples) = [] := by
  induction samples with
  | nil => rfl
  | cons v vs ih => simpa [pollEvents, busWrites] using ih

/-- The events beyond a trace that was extended. -/
theorem newEvents_of_trace {s t : State} {es : List Event} (h : t.trace = s.trace ++ es) : newEvents s t = es := by
  simp [newEvents, h]

end Sys2Proof.Machine
end

