-- ==== Sys2Proof/Laws/PerInstr.lean ====
section
/-! SUPPORT. Laws stated for every instruction, one lemma for each constructor: family `Fields`, that the word of a
command holds its opcode and its operand in the fields of format C (spec/30_encoding.md R58, R59). -/

namespace Sys2Proof

/-- The three fields of a word of format C are what it was made of. -/
theorem formatC_fields (op : BitVec 4) (arg : Byte) :
    zeroField (formatC op arg) = 0 ∧ opField (formatC op arg) = op ∧ argField (formatC op arg) = arg := by
  refine ⟨?_, ?_, ?_⟩ <;>
  · apply BitVec.eq_of_getLsbD_eq
    intro i hi
    simp only [zeroField, opField, argField, formatC, BitVec.getLsbD_extractLsb', BitVec.getLsbD_append]
    interval_cases i <;> simp

namespace Laws.Fields

/-- The word of `i` has bits 15 to 12 zero, its opcode in bits 11 to 8 and its operand byte in bits 7 to 0. -/
def Statement (i : Instr) : Prop :=
  zeroField (encode i) = 0 ∧ opField (encode i) = opcodeOf i ∧ argField (encode i) = operandOf i

theorem wri (b : Byte) : Statement (.wri b) := formatC_fields _ _

theorem wrd (b : Byte) : Statement (.wrd b) := formatC_fields _ _

theorem init (w : Nat) : Statement (.init w) := formatC_fields _ _

theorem clear : Statement .clear := formatC_fields _ _

theorem display : Statement .display := formatC_fields _ _

end Laws.Fields

end Sys2Proof
end

