-- ==== Sys2Proof/Tests/Slice0.lean ====
section
/-! SUPPORT. Tests of the model on fixed values, with results taken from spec/95_test_vectors.md or worked out by hand from
the rules, and for each statement with hypotheses a witness: a concrete state and operands that meet them. -/

namespace Sys2Proof.Machine.Tests

/-! ## Helpers -/

/-- An idle block with a Ready session: the start state of the vectors of spec/95_test_vectors.md 3.3. -/
def ready (w : BusWidth) (answers : List Byte) : State :=
  { State.reset with width := w, sess := .ready, cpDir := 0x07, bpDir := 0x0F, answers := answers }

/-- The same with POLL_CAP = c. -/
def capped (c : { c : Nat // 0 < c }) (s : State) : State :=
  { s with cfg := { s.cfg with pollCap := some c } }

/-- The same with EN8_RELEASE = ByEngine. -/
def byEngine (s : State) : State := { s with cfg := { s.cfg with en8Release := .byEngine } }

/-- The same with a text in TXT. -/
def withText (text : List Byte) (s : State) : State := { s with txt := Memory.ofBytes text }

/-- A running block with this stack of frames, as inside a transfer. -/
def running (frames : List Frame) (s : State) : State :=
  { s with
    seq := .running, upc := frames, cpDir := 0xFF, bpDir := 0x7F, sv2Cp := 0xFF, sv2Bp := 0xFF
    outcome := none }

/-- `n` answers that are not busy. -/
def z (n : Nat) : List Byte := List.replicate n 0x00

/-- The answer is a next state with this property. -/
def goes (p : State → Bool) : Host.Outcome State Fault Refusal → Bool
  | .next t => p t
  | .fault _ => false
  | .refused _ => false

theorem exists_of_goes {p : State → Bool} {o : Host.Outcome State Fault Refusal} (h : goes p o = true) :
    ∃ t, o = .next t ∧ p t = true := by
  cases o with
  | next t => exact ⟨t, rfl, h⟩
  | fault r => cases h
  | refused r => cases h

/-- The command has returned with outcome Done. -/
def isDone (t : State) : Bool := t.outcome == some .done

theorem done_of_goes {o : Host.Outcome State Fault Refusal} (h : goes isDone o = true) :
    ∃ t, o = .next t ∧ t.outcome = some .done := by
  obtain ⟨t, ht, hd⟩ := exists_of_goes h
  exact ⟨t, ht, by simpa [isDone] using hd⟩

/-- The invariant, as a check that can be evaluated. -/
def invCheck (s : State) : Bool :=
  Memory.wf s.txt && ((s.seq == .idle) == s.upc.isEmpty) && (s.sess != .ready || s.width != .unset)
    && (s.cfg.pollCap.isSome || !s.errDnr) && decide (s.idx.toNat ≤ 32) && stackOk s

theorem inv_of_check {s : State} (h : invCheck s = true) : Inv s := by
  simp only [invCheck, Bool.and_eq_true, decide_eq_true_eq] at h
  obtain ⟨⟨⟨⟨⟨h1, h2⟩, h3⟩, h4⟩, h5⟩, h6⟩ := h
  refine ⟨h1, ?_, ?_, ?_, h5, h6⟩
  · cases hs : s.seq <;> cases hu : s.upc <;> simp_all
  · intro hr
    simpa [hr] using h3
  · intro hc
    simpa [hc] using h4

/-! ## Well-formedness, decoding, encoding -/

/-- R71: a width that does not fit a byte has no command word. -/
theorem test_wf_refuses_wide_width : Instr.wf (.init 256) = false := by decide

theorem test_wf_accepts_widest_byte : Instr.wf (.init 255) = true := by decide

/-- 0000 0001 bbbbbbbb is WRI. -/
theorem test_decode_wri : decode 0b0000000101000001#16 = .ok (.wri 0x41) := by rfl

/-- 0000 0010 bbbbbbbb is WRD; the newline byte means nothing to it. -/
theorem test_decode_wrd : decode 0b0000001000001010#16 = .ok (.wrd 0x0A) := by rfl

/-- 0000 0100 wwwwwwww is INIT. -/
theorem test_decode_init : decode 0b0000010000000100#16 = .ok (.init 4) := by rfl

/-- 0000 0101 0000 0000 is CLEAR, and no other operand is. -/
theorem test_decode_clear :
    decode 0b0000010100000000#16 = .ok .clear ∧ decode 0b0000010100000001#16 = .error .operandNotZero := ⟨rfl, rfl⟩

/-- 0000 0110 0000 0000 is DISPLAY. -/
theorem test_decode_display : decode 0b0000011000000000#16 = .ok .display := by rfl

/-- The words 0x0000, 0x0300, 0x0700, 0x0F00, 0x1101 and 0xFFFF are reserved (95_test_vectors 3.1). -/
theorem test_decode_reserved :
    decode 0x0000 = .error .reservedOpcode ∧ decode 0x0300 = .error .reservedOpcode ∧
    decode 0x0700 = .error .reservedOpcode ∧ decode 0x0F00 = .error .reservedOpcode ∧
    decode 0x1101 = .error .zeroFieldNotZero ∧ decode 0xFFFF = .error .zeroFieldNotZero :=
  ⟨rfl, rfl, rfl, rfl, rfl, rfl⟩

/-- R72: WCA 0x40, 'X' is the words 0x01C0, 0x0258. -/
theorem test_encode_wca :
    assemble Config.standard (.wca 0x40 0x58) = [.command 0x01C0 none, .command 0x0258 none] := by decide

/-- No two rows of the opcode map share a word: they differ in bits 11 to 8, which every mask holds. -/
theorem test_rows_disjoint :
    opTable.Pairwise (fun r q => r.mask &&& q.mask &&& (r.pattern ^^^ q.pattern) ≠ 0) := by decide

theorem test_decode_table_word :
    decodeTableWord 16 0x0408 = some (.init 8) ∧ decodeTableWord 16 0x0501 = none := by decide

/-! ## The assembler (R70) -/

theorem test_parse_hex : parseLine "WRI 0x01".toList = some (.command (.wri 0x01)) := by decide

theorem test_parse_char : parseLine "WRD 'A' ; a letter".toList = some (.command (.wrd 0x41)) := by decide

theorem test_parse_string :
    parseLine "DISPLAY \"A\\nB\"".toList = some (.displayText [0x41, 0x0A, 0x42]) := by decide

theorem test_parse_pair : parseLine "WCA 0x40, 'X'".toList = some (.wca 0x40 0x58) := by decide

theorem test_parse_lower_case : parseLine "wri 1".toList = none := by decide

/-! ## The micro-operations and BFW (95_test_vectors 3.2) -/

/-- V-PIN-3: the event is emitted even where nothing changes. -/
theorem test_setDirection_no_change :
    (setDirection .bp 0x80 false (ready .eight [])).trace = [.dirW .bp 0x0F] := by decide

/-- V-PIN-4, with RS at bit 0 and the other seven bits set. -/
theorem test_setControl_one_bit :
    (setControl .en false { ready .eight [] with cpOut := 0xFF }).cpOut = 0xFB := by decide

/-- V-BFW-3: 0xFF is busy, 0x7F is not; 12 events; directions as found. -/
theorem test_bfw_only_bit_seven :
    (match bfw [] (ready .eight [0xFF, 0x7F]) with
      | .done t => t.trace.length == 12 && t.npoll == 2 && t.cpDir == 0x07 && t.bpDir == 0x0F
      | .halted _ => false
      | .refused _ => false) = true := by decide

/-! ## WRI and WRD (95_test_vectors 3.3) -/

/-- V-XFER-1. -/
theorem test_wri_eight :
    goes (fun t => t.trace ==
      [.dirW .cp 0xFF, .dirW .bp 0xFF, .ctlW .en false, .busW 0x01, .ctlW .rs false, .ctlW .rw false, .ctlW .en true,
        .dirW .bp 0x7F, .ctlW .rs false, .ctlW .rw true, .ctlW .en true, .busR 0x00, .ctlW .en false, .dly 1,
        .dirW .cp 0xFF, .dirW .bp 0xFF, .dirW .cp 0x07, .dirW .bp 0x0F])
      (exec (.wri 0x01) (ready .eight [0x00])) = true := by decide

/-- V-BFW-5: POLL_CAP = 3 and three busy answers. -/
theorem test_wri_cap :
    goes (fun t => t.trace.length == 23 && t.errDnr && t.npoll == 3 && t.busyf && t.bpOut == 0x01 && t.cpDir == 0x07
      && t.bpDir == 0x0F && t.seq == .idle)
      (exec (.wri 0x01) (capped ⟨3, by decide⟩ (ready .eight [0x80, 0x80, 0x80]))) = true := by decide

/-- V-XFER-4: high nibble 0x40 first, then 0x10. -/
theorem test_wrd_four :
    goes (fun t => t.trace.length == 25 && t.bpOut == 0x10 && (t.trace.drop 2).take 8 ==
      [.ctlW .rs true, .ctlW .rw false, .busW 0x40, .ctlW .en true, .dly 800, .ctlW .en false, .dly 800, .busW 0x10])
      (exec (.wrd 0x41) (ready .four [0x00])) = true := by decide

/-- V-XFER-3: two busy answers; a rising-edge observer sees the byte and two reads. -/
theorem test_wrd_observed :
    goes (fun t => observe .rise Observer.start t.trace == [.data 0x41, .read, .read] && t.npoll == 3)
      (exec (.wrd 0x41) (ready .eight [0x80, 0x80, 0x00])) = true := by decide

/-! ## INIT (95_test_vectors 3.4) -/

/-- V-INIT-4: 170 events, five bus reads. -/
theorem test_init_four :
    goes (fun t => t.trace.length == 170 && t.reads == 5 && t.width == .four && t.sess == .ready && t.bpOut == 0xC0)
      (exec (.init 4) { State.reset with answers := z 5 }) = true := by decide +kernel

/-- V-INIT-7: a stuck display with POLL_CAP = 3 ends INIT at its first transfer, after 57 events. -/
theorem test_init_cap :
    goes (fun t => t.trace.length == 57 && t.width == .eight && t.sess == .initializing && t.errDnr && t.bpOut == 0x38)
      (exec (.init 8) (capped ⟨3, by decide⟩
        { State.reset with cpDir := 0x07, bpDir := 0x0F, answers := [0x80, 0x80, 0x80] })) = true := by decide

/-! ## CLEAR and DISPLAY -/

/-- V-CLR-1, seen as V-XFER-1 at the default edge and at the other. -/
theorem test_clear_strobe :
    goes (fun t => strobes t.trace == [.instr 0x01] && strobes t.trace .fall == [.read])
      (exec .clear (ready .eight [0x00])) = true := by decide

/-- V-DSP-5: the text "A", newline, "B". -/
theorem test_display_newline :
    goes (fun t => observe .rise Observer.start t.trace ==
        [.instr 0x01, .instr 0x80, .data 0x41, .instr 0xC0, .data 0x42] && t.cur == 0x41 && t.idx == 3)
      (exec .display (withText [0x41, 0x0A, 0x42] (ready .eight (z 5)))) = true := by decide +kernel

/-- V-DSP-13: 19 cells, of which the characters from position 16 on overwrite the start of line 2. -/
theorem test_display_overwrites :
    (displayCells 0x00 (Memory.ofBytes [0x41, 0x42, 0x0A, 0x43, 0x44, 0x45, 0x46, 0x47, 0x48, 0x49, 0x4A, 0x4B, 0x4C,
      0x4D, 0x4E, 0x4F, 0x50, 0x51, 0x52, 0x53])).drop 13 =
      [(0x4B, 0x4E), (0x4C, 0x4F), (0x40, 0x50), (0x41, 0x51), (0x42, 0x52), (0x43, 0x53)] := by decide

/-! ## Reset and the memory -/

theorem test_reset_text_wf : Memory.wf State.reset.txt = true := by decide

/-- Writing the value an unlisted address reads as removes the entry. -/
theorem test_write_unlisted : Memory.write [(3, 0x41)] 3 0x00 = [] := by decide

/-! ## Witnesses: the command word and the step -/

theorem witness_DecodeInvertsEncode :
    Instr.wf (.wri 0xFF) = true ∧ Instr.wf (.wrd 0x00) = true ∧ Instr.wf (.init 0) = true ∧ Instr.wf (.init 255) = true ∧
    Instr.wf .clear = true ∧ Instr.wf .display = true := by decide

theorem witness_EncodeInvertsDecode : decode 0x04FF = .ok (.init 255) := by rfl

/-- One word for each clause, at the ends of its range, and the neighbours outside it. -/
theorem witness_ReservedWordsAreRefused :
    (∀ w : CmdWord, w ∈ [0x1101, 0xF101, 0x0000, 0x0300, 0x0700, 0x0FFF, 0x0501, 0x05FF, 0x0601, 0x06FF] →
      ∃ e, step { State.reset with host := [.command w none] } = .refused (.reservedCommand e)) ∧
    (∀ w : CmdWord, w ∈ [0x0405, 0x0400, 0x04FF] →
      ∃ t, step { State.reset with host := [.command w none] } = .next t) := by
  refine ⟨?_, ?_⟩ <;> intro w hw <;> fin_cases hw <;> exact ⟨_, rfl⟩

theorem witness_StepRunsDecodedCommand :
    ∃ (s : State) (rest : List HostAct), s.seq = .idle ∧ s.host = .command 0x0600 (some [0x41, 0x00]) :: rest ∧
      decode 0x0600 = .ok .display :=
  ⟨{ State.reset with host := [.command 0x0600 (some [0x41, 0x00])] }, [], rfl, rfl, rfl⟩

theorem witness_StepWithoutCommand :
    (∃ s : State, s.seq = .idle ∧ s.host = []) ∧
    (∃ s : State, s.seq = .running ∧ s.host.head? ≠ some .reset) ∧
    (∀ r : PortReg, ∃ s : State, s.seq = .idle ∧ s.host = [.portWrite r 0xFF]) :=
  ⟨⟨State.reset, rfl, rfl⟩, ⟨acceptCommand .clear State.reset, rfl, by decide⟩,
    fun r => ⟨{ State.reset with host := [.portWrite r 0xFF] }, rfl, rfl⟩⟩

/-- A reset taken out of a busy-flag wait. -/
theorem witness_ResetEndsAnyCommand :
    ∃ s : State, s.host = .reset :: [] ∧ s.seq = .running ∧ s.upc = [.bfw .b8, .xfer false 1 .x8, .wri 1 .ret] :=
  ⟨{ running [.bfw .b8, .xfer false 1 .x8, .wri 1 .ret] (ready .eight []) with host := [.reset] }, rfl, rfl, rfl⟩

/-- A step that emits one DirW. -/
theorem witness_SetDirectionChangesMaskedPins :
    ∃ s t, microStep s = .next t ∧ newEvents s t = [.dirW .bp 0x7F] :=
  ⟨running [.bfw .b3, .xfer true 0x41 .x8, .wrd 0x41 .ret] { ready .eight [] with trace := [.dly 1] }, _, rfl, by decide⟩

theorem witness_BusReadWriteAndDelay :
    (ready .eight [0x80]).answers = 0x80 :: [] ∧ (ready .eight []).answers = [] := ⟨rfl, rfl⟩

/-! ## Witnesses: the monitor and the engine -/

theorem witness_BfwPollsUntilReady :
    ∃ s : State, s.seq = .running ∧ s.upc = .bfw .b1 :: .xfer false 1 .x8 :: [.wri 1 .ret] ∧
      waitReturns s.cfg s.answers = true ∧ busyCount s.answers = 2 :=
  ⟨running [.bfw .b1, .xfer false 1 .x8, .wri 1 .ret] (ready .eight [0x80, 0xFF, 0x7F]), rfl, rfl, by decide, by decide⟩

theorem witness_BusyDisplayKeepsSpinning :
    ∃ (s : State) (busy rest : List Byte), s.seq = .running ∧ s.upc = .bfw .b7 :: [.xfer false 1 .x8, .wri 1 .ret] ∧
      s.cfg.pollCap = none ∧ s.host.head? ≠ some .reset ∧ readBusValid s = true ∧ s.answers = busy ++ rest ∧
      busy.all busyFlag = true ∧ busy.length = 3 :=
  ⟨running [.bfw .b7, .xfer false 1 .x8, .wri 1 .ret] (ready .eight [0x80, 0x80, 0xFF, 0x00]), [0x80, 0x80, 0xFF],
    [0x00], rfl, rfl, rfl, by decide, by decide, rfl, by decide, rfl⟩

/-- With a cap of 3, the third answer may be the first that is not busy (R131). -/
theorem witness_EngineCommandsComplete :
    ∃ s : State, s.width ≠ .unset ∧ waitReturns s.cfg s.answers = true ∧ s.cfg.pollCap = some ⟨3, by decide⟩ :=
  ⟨capped ⟨3, by decide⟩ (ready .four [0x80, 0x80, 0x00]), by decide, by decide, rfl⟩

theorem witness_TransferEventList :
    (∃ (s t : State), s.width = .eight ∧ s.cfg.en8Release = .byMonitor ∧ xfer [] true 0x41 s = .done t) ∧
    (∃ (s t : State), s.width = .eight ∧ s.cfg.en8Release = .byEngine ∧ xfer [] true 0x41 s = .done t) ∧
    (∃ (s t : State), s.width = .four ∧ xfer [] true 0x41 s = .done t) :=
  ⟨⟨ready .eight [0x00], _, rfl, rfl, rfl⟩, ⟨byEngine (ready .eight [0x00]), _, rfl, rfl, rfl⟩,
    ⟨ready .four [0x00], _, rfl, rfl⟩⟩

theorem witness_EngineCommandsNeedWidth : State.reset.width = .unset := rfl

/-- The cap is met by exactly as many busy answers. -/
theorem witness_EngineCommandsFaultAtCap :
    ∃ (s : State) (c : { c : Nat // 0 < c }), s.width ≠ .unset ∧ s.cfg.pollCap = some c ∧ c.val = busyCount s.answers :=
  ⟨capped ⟨2, by decide⟩ (ready .eight [0x80, 0x80, 0x00]), ⟨2, by decide⟩, by decide, rfl, by decide⟩

/-- No answer listed, and as many busy answers as the cap less one. -/
theorem witness_EngineCommandsWaitWhileBusy :
    (∃ s : State, s.width ≠ .unset ∧ s.answers = [] ∧ waitPending s.cfg s.answers = true) ∧
    (∃ s : State, s.width ≠ .unset ∧ s.cfg.pollCap = some ⟨3, by decide⟩ ∧ waitPending s.cfg s.answers = true) :=
  ⟨⟨ready .four [], by decide, rfl, by decide⟩,
    ⟨capped ⟨3, by decide⟩ (ready .eight [0x80, 0x80]), by decide, rfl, by decide⟩⟩

/-- Each of the three commands, ended Done and ended by the fault. -/
theorem witness_TransferCommandsFrame :
    (∃ t, exec (.wri 0x01) (ready .eight [0x00]) = .next t ∧ t.outcome = some .done) ∧
    (∃ t, exec (.wrd 0x41) (ready .four [0x00]) = .next t ∧ t.outcome = some .done) ∧
    (∃ t, exec .clear (ready .eight [0x00]) = .next t ∧ t.outcome = some .done) ∧
    (∃ t, exec .clear (capped ⟨1, by decide⟩ (ready .eight [0x80])) = .next t ∧ t.errDnr = true) :=
  ⟨done_of_goes (by decide), done_of_goes (by decide), done_of_goes (by decide),
    exists_of_goes (p := fun t => t.errDnr) (by decide)⟩

/-! ## Witnesses: every completed command -/

/-- Every command ends Done somewhere. -/
theorem witness_CompletedCommandLeavesPorts :
    (∃ t, exec (.wri 0x01) (ready .eight [0x00]) = .next t ∧ t.outcome = some .done) ∧
    (∃ t, exec (.wrd 0x41) (ready .four [0x00]) = .next t ∧ t.outcome = some .done) ∧
    (∃ t, exec (.init 8) { State.reset with answers := z 5 } = .next t ∧ t.outcome = some .done) ∧
    (∃ t, exec (.init 4) { State.reset with answers := z 5 } = .next t ∧ t.outcome = some .done) ∧
    (∃ t, exec .clear (ready .eight [0x00]) = .next t ∧ t.outcome = some .done) ∧
    (∃ t, exec .display (withText [0x48, 0x49] (ready .four (z 5))) = .next t ∧ t.outcome = some .done) :=
  ⟨done_of_goes (by decide), done_of_goes (by decide), done_of_goes (by decide),
    done_of_goes (by decide), done_of_goes (by decide), done_of_goes (by decide)⟩

/-- A return by the fault. -/
theorem witness_EveryReturnRestoresDirections :
    ∃ t, exec .display (capped ⟨1, by decide⟩ (withText [0x48] (ready .eight [0x00, 0x00, 0x80]))) = .next t ∧
      t.seq = .idle ∧ t.outcome = some .deviceNotResponding := by
  obtain ⟨t, ht, h⟩ := exists_of_goes (o := exec .display (capped ⟨1, by decide⟩ (withText [0x48]
    (ready .eight [0x00, 0x00, 0x80])))) (p := fun t => t.seq == .idle && t.outcome == some .deviceNotResponding)
    (by decide)
  exact ⟨t, ht, by simpa using h⟩

/-! ## Witnesses: INIT, CLEAR -/

/-- The widths next to 4 and 8 and at both ends of the byte. -/
theorem witness_UnsupportedWidthIsNoOp :
    (∀ w ∈ [0, 3, 5, 7, 9, 255], w < 256 ∧ w ≠ 4 ∧ w ≠ 8) ∧ State.reset.seq = .idle ∧ State.reset.upc = [] := by decide

theorem witness_InitCompletes :
    ∃ s : State, waitsReturn s.cfg 5 s.answers = true ∧ s.answers = [0x80, 0x00, 0x00, 0x7F, 0xFF, 0xFF, 0x00, 0x00] :=
  ⟨{ State.reset with answers := [0x80, 0x00, 0x00, 0x7F, 0xFF, 0xFF, 0x00, 0x00] }, by decide, rfl⟩

theorem witness_InitEventList : ∃ s : State, waitsReturn s.cfg 5 s.answers = true :=
  ⟨{ State.reset with answers := z 5 }, by decide⟩

/-- INIT cut short by the fault and by a wait that goes on, for both widths. -/
theorem witness_UnfinishedInitStaysInitializing :
    (∃ t, exec (.init 8) (capped ⟨3, by decide⟩ { State.reset with answers := [0x80, 0x80, 0x80] }) = .next t ∧
      t.outcome = some .deviceNotResponding) ∧
    (∃ t, exec (.init 4) { State.reset with answers := z 4 } = .next t ∧ t.outcome = none) := by
  refine ⟨?_, ?_⟩
  · obtain ⟨t, ht, h⟩ := exists_of_goes (o := exec (.init 8) (capped ⟨3, by decide⟩ { State.reset with
      answers := [0x80, 0x80, 0x80] })) (p := fun t => t.outcome == some .deviceNotResponding) (by decide)
    exact ⟨t, ht, by simpa using h⟩
  · obtain ⟨t, ht, h⟩ := exists_of_goes (o := exec (.init 4) { State.reset with answers := z 4 })
      (p := fun t => t.outcome == none) (by decide)
    exact ⟨t, ht, by simpa using h⟩

theorem witness_InitFrame : ∃ t, exec (.init 8) State.reset = .next t :=
  (exists_of_goes (p := fun _ => true) (by decide)).imp fun _ h => h.1

theorem witness_ClearCompletes :
    ∃ s : State, s.sess = .ready ∧ s.width ≠ .unset ∧ waitReturns s.cfg s.answers = true :=
  ⟨ready .eight [0x80, 0x00], rfl, by decide, by decide⟩

/-- CLEAR that goes on, and CLEAR refused in a state that no run reaches. -/
theorem witness_ClearIsWriOfClearByte :
    (∃ t, (ready .four []).sess = .ready ∧ exec .clear (ready .four []) = .next t) ∧
    (ready .unset []).sess = .ready ∧ exec .clear (ready .unset []) = .refused .useBeforeInit :=
  ⟨⟨_, rfl, rfl⟩, rfl, rfl⟩

/-! ## Witnesses: DISPLAY -/

theorem witness_DisplayCompletes :
    ∃ s : State, s.sess = .ready ∧ s.width ≠ .unset ∧
      waitsReturn s.cfg (1 + 2 * (displayCells s.cfg.term s.txt).length) s.answers = true ∧
      (displayCells s.cfg.term s.txt).length = 32 :=
  ⟨withText (List.replicate 40 0x41) (ready .eight (z 65)), rfl, by decide, by decide, by decide⟩

theorem witness_DisplayEventList :
    ∃ t, exec .display (withText [0x41, 0x0A, 0x42] (ready .eight (z 5))) = .next t ∧ t.outcome = some .done :=
  done_of_goes (by decide)

/-- V-DSP-3: a text of exactly 16 characters. -/
theorem witness_ShortTextOnLineOne :
    (List.replicate 16 (0x41 : Byte)).length ≤ 16 ∧
    (∀ ch ∈ List.replicate 16 (0x41 : Byte), ch ≠ Config.standard.term ∧ ch ≠ 0x0A) ∧
    ∃ t, exec .display { ready .eight (z 33) with txt := Memory.ofBytes (List.replicate 16 0x41 ++ [0x00]) } = .next t ∧
      t.outcome = some .done :=
  ⟨by decide, by decide, done_of_goes (by decide)⟩

/-- A DISPLAY that ends Done, of a text with a newline at position 3 and content at position 16; and one of a text with 16
characters, newline, character. -/
theorem witness_PositionSixteenOnLineTwo_trace :
    (∃ t, exec .display (withText ([0x41, 0x42, 0x43, 0x0A] ++ List.replicate 13 0x41) (ready .eight (z 33))) = .next t ∧
      t.outcome = some .done) ∧
    (∃ t, exec .display (withText (List.replicate 16 0x41 ++ [0x0A, 0x42]) (ready .eight (z 35))) = .next t ∧
      t.outcome = some .done) ∧
    (∀ i < 16, Memory.read (Memory.ofBytes ([0x41, 0x42, 0x43, 0x0A] ++ List.replicate 13 0x41)) i ≠ 0x00) ∧
    isChar 0x00 (Memory.ofBytes ([0x41, 0x42, 0x43, 0x0A] ++ List.replicate 13 0x41)) 16 ∧
    (∀ i < 16, isChar 0x00 (Memory.ofBytes (List.replicate 16 0x41 ++ [0x0A, 0x42])) i) := by
  unfold isChar
  exact ⟨done_of_goes (by decide +kernel), done_of_goes (by decide +kernel), by decide, by decide, by decide⟩

/-- IDX at 16 and next to it; a text with no newline before position 16, which has a 17th character; and one with a
newline at position 3. -/
theorem witness_PositionSixteenOnLineTwo :
    (({ State.reset with idx := 16 } : State).idx = 16 ∧ ({ State.reset with idx := 15 } : State).idx ≠ 16 ∧
      (displayCells 0x00 (Memory.ofBytes (List.replicate 17 0x41)))[16]? = some (0x40, 0x41)) ∧
    ((∀ i < 16, isChar 0x00 (Memory.ofBytes (List.replicate 17 0x41)) i) ∧
      isChar 0x00 (Memory.ofBytes (List.replicate 17 0x41)) 16) ∧
    ((∀ i < 16, Memory.read (Memory.ofBytes ([0x41, 0x42, 0x43, 0x0A] ++ List.replicate 17 0x41)) i ≠ 0x00) ∧
      isChar 0x00 (Memory.ofBytes ([0x41, 0x42, 0x43, 0x0A] ++ List.replicate 17 0x41)) 16) := by
  unfold isChar
  decide

/-- A newline at position 0, at position 15 and at position 30. -/
theorem witness_NewlineGoesToLineTwo :
    ∀ k ∈ [0, 15, 30], k + 1 < 32 ∧
      (∀ i < k, Memory.read (Memory.ofBytes (List.replicate k 0x41 ++ [0x0A, 0x42])) i ≠ 0x00) ∧
      Memory.read (Memory.ofBytes (List.replicate k 0x41 ++ [0x0A, 0x42])) k = 0x0A ∧
      isChar 0x00 (Memory.ofBytes (List.replicate k 0x41 ++ [0x0A, 0x42])) (k + 1) := by
  unfold isChar
  decide

/-- The same of a DISPLAY that ends Done, with the newline at position 0 and at position 1. -/
theorem witness_NewlineGoesToLineTwo_trace :
    (∃ t, exec .display (withText [0x0A, 0x42] (ready .four (z 3))) = .next t ∧ t.outcome = some .done) ∧
    (∃ t, exec .display (withText [0x41, 0x0A, 0x42] (ready .eight (z 5))) = .next t ∧ t.outcome = some .done) ∧
    isChar 0x00 (Memory.ofBytes [0x0A, 0x42]) 1 ∧ isChar 0x00 (Memory.ofBytes [0x41, 0x0A, 0x42]) 2 ∧
    Memory.read (Memory.ofBytes [0x0A, 0x42]) 0 = 0x0A ∧ Memory.read (Memory.ofBytes [0x41, 0x0A, 0x42]) 1 = 0x0A ∧
    Config.standard.term ≠ 0x0A := by
  unfold isChar
  exact ⟨done_of_goes (by decide), done_of_goes (by decide), by decide, by decide, by decide, by decide, by decide⟩

/-- The default CMD_SET_DDRAM, and a text that fills a cell of each line. -/
theorem witness_DisplayWritesVisibleCells :
    Config.standard.cmdSetDdram = 0x80 ∧
    ∃ t, exec .display (withText [0x41, 0x0A, 0x42] (ready .four (z 5))) = .next t ∧ t.outcome = some .done :=
  ⟨rfl, done_of_goes (by decide)⟩

/-- Two texts that differ from index 32 on, and a DISPLAY that runs and one that is refused. -/
theorem witness_TextBeyond32IsNotSeen :
    (∀ i < 32, Memory.read (Memory.ofBytes (List.replicate 40 0x41)) i =
      Memory.read (Memory.ofBytes (List.replicate 32 0x41)) i) ∧
    (∃ t, exec .display (withText (List.replicate 40 0x41) (ready .eight [])) = .next t) ∧
    exec .display (withText (List.replicate 40 0x41) State.reset) = .refused .notReady :=
  ⟨by decide, ⟨_, rfl⟩, rfl⟩

theorem witness_DisplayForgetsCursor :
    ∃ t, exec .display (withText [0x41] (ready .four (z 3))) = .next t ∧ t.outcome = some .done :=
  done_of_goes (by decide)

theorem witness_DisplayFrame :
    ∃ t, exec .display (withText [0x41] (ready .eight (z 2))) = .next t ∧ t.outcome ≠ some .deviceNotResponding := by
  obtain ⟨t, ht, h⟩ := exists_of_goes (o := exec .display (withText [0x41] (ready .eight (z 2))))
    (p := fun t => t.outcome != some .deviceNotResponding) (by decide)
  exact ⟨t, ht, by simpa using h⟩

/-! ## Witnesses: the whole machine -/

/-- The invariant holds of an idle Ready block and of states inside a command, and a step leaves each. -/
theorem witness_StepKeepsInvariant :
    (∃ s t, Inv s ∧ s.seq = .idle ∧ step s = .next t) ∧ (∃ s t, Inv s ∧ s.seq = .running ∧ step s = .next t) :=
  ⟨⟨ready .eight [], _, inv_of_check (by decide), rfl, rfl⟩,
    ⟨running [.bfw .b8, .xfer true 0x41 .x8, .display .s12] (withText [0x41] (ready .eight [0x80])), _,
      inv_of_check (by decide), rfl, rfl⟩⟩

theorem witness_OnlyTheHostCanBeRefused :
    Inv { State.reset with host := [.command 0x0500 none] } := inv_of_check (by decide)

/-- One state for each clause: a bus write, a bus read, a control write. -/
theorem witness_ArbiterDiscipline :
    (∃ s t, Inv s ∧ s.seq = .running ∧ microStep s = .next t ∧ newEvents s t = [.busW 0x41]) ∧
    (∃ s t, Inv s ∧ s.seq = .running ∧ microStep s = .next t ∧ newEvents s t = [.busR 0x80]) ∧
    (∃ s t, Inv s ∧ s.seq = .running ∧ microStep s = .next t ∧ newEvents s t = [.ctlW .en true]) :=
  ⟨⟨{ running [.xfer true 0x41 .e2, .wrd 0x41 .ret] (ready .eight []) with bpDir := 0xFF, dreg := 0x41 }, _,
      inv_of_check (by decide), rfl, rfl, rfl⟩,
    ⟨running [.bfw .b8, .xfer true 0x41 .x8, .wrd 0x41 .ret] (ready .eight [0x80]), _, inv_of_check (by decide), rfl, rfl,
      rfl⟩,
    ⟨running [.bfw .b7, .xfer true 0x41 .x8, .wrd 0x41 .ret] (ready .eight [0x80]), _, inv_of_check (by decide), rfl, rfl,
      rfl⟩⟩

/-- EN = 0 when a command is accepted, a poll with RW and EN both 1, and the last step of a command. -/
theorem witness_ReadCycleNeverDrivesBit7 :
    enLow (ready .eight []) = true ∧
    (∃ s t, Inv s ∧ LinesOk s ∧ s.seq = .running ∧ microStep s = .next t ∧ line t .rw = true ∧ line t .en = true) ∧
    (∃ s t, Inv s ∧ LinesOk s ∧ s.seq = .running ∧ microStep s = .next t ∧ t.upc = []) :=
  ⟨by decide,
    ⟨{ running [.bfw .b7, .xfer true 0x41 .x8, .wrd 0x41 .ret] (ready .eight [0x80]) with cpOut := 0x02 }, _,
      inv_of_check (by decide), rfl, rfl, rfl, by decide, by decide⟩,
    ⟨running [.wrd 0x41 .ret] (ready .eight []), _, inv_of_check (by decide), rfl, rfl, rfl, rfl⟩⟩

theorem witness_PollLeavesLowPinsDriven :
    ∃ (s : State) (below : List Frame), Inv s ∧ s.upc = .bfw .b8 :: below :=
  ⟨running [.bfw .b8, .xfer true 0x41 .x8, .wrd 0x41 .ret] (ready .four []), _, inv_of_check (by decide), rfl⟩

/-- A command that comes to a state, and one that is refused. -/
theorem witness_CommandIsItsSteps :
    (∃ t, exec (.wrd 0x41) (ready .four [0x00]) = .next t) ∧ exec .display State.reset = .refused .notReady :=
  ⟨⟨_, rfl⟩, rfl⟩

/-- The three ways in which WIDTH changes. -/
theorem witness_OnlyInitWritesWidth :
    (∃ s t, step s = .next t ∧ t.width ≠ s.width ∧ s.host.head? = some .reset) ∧
    (∃ s t, step s = .next t ∧ t.width ≠ s.width ∧ s.seq = .running) ∧
    (∃ s t, step s = .next t ∧ t.width ≠ s.width ∧ s.seq = .idle ∧ s.host.head? ≠ some .reset) := by
  refine ⟨⟨{ ready .eight [] with host := [.reset] }, _, rfl, by decide, rfl⟩,
    ⟨{ acceptCommand (.init 4) State.reset with upc := [.init 4 .i9] }, _, rfl, by decide, rfl⟩, ?_⟩
  obtain ⟨t, ht, h⟩ := exists_of_goes (o := step { State.reset with host := [.command 0x0408 none] })
    (p := fun t => t.width == .eight) (by decide)
  have hw : t.width = .eight := by simpa using h
  exact ⟨_, t, ht, by rw [hw]; decide, rfl, by decide⟩

/-- The ways in which SESS changes: reset, step I2, step I15, and an INIT run whole. -/
theorem witness_OnlyInitWritesWidth_session :
    (∃ s t, step s = .next t ∧ t.sess ≠ s.sess ∧ s.host.head? = some .reset) ∧
    (∃ s t, step s = .next t ∧ t.sess ≠ s.sess ∧ s.upc = [.init 4 .i2]) ∧
    (∃ s t, step s = .next t ∧ t.sess ≠ s.sess ∧ s.upc = [.init 4 .i15]) ∧
    (∃ s t, step s = .next t ∧ t.sess ≠ s.sess ∧ s.seq = .idle ∧ s.host.head? ≠ some .reset) := by
  refine ⟨⟨{ ready .eight [] with host := [.reset] }, _, rfl, by decide, rfl⟩,
    ⟨{ acceptCommand (.init 4) State.reset with upc := [.init 4 .i2] }, _, rfl, by decide, rfl⟩,
    ⟨{ acceptCommand (.init 4) State.reset with upc := [.init 4 .i15] }, _, rfl, by decide, rfl⟩, ?_⟩
  obtain ⟨t, ht, h⟩ := exists_of_goes (o := step { State.reset with host := [.command 0x0408 none] })
    (p := fun t => t.sess == .initializing) (by decide)
  have hs : t.sess = .initializing := by simpa using h
  exact ⟨_, t, ht, by rw [hs]; decide, rfl, by decide⟩

theorem witness_OnlyResetClearsErrDnr :
    ∃ s t, step s = .next t ∧ s.errDnr = true ∧ s.host.head? ≠ some .reset :=
  ⟨{ capped ⟨3, by decide⟩ (ready .eight []) with errDnr := true }, _, rfl, rfl, by decide⟩

theorem witness_StepOnlyExtendsTrace : ∃ t, step { State.reset with host := [.command 0x0404 none] } = .next t :=
  (exists_of_goes (p := fun _ => true) (by decide)).imp fun _ h => h.1

/-- A command, another user's write of another register, and a running block with a write of CP_OUT queued. -/
theorem witness_StepKeepsForeignBits :
    (∃ t, step { State.reset with cpOut := 0xF8, host := [.command 0x0404 none] } = .next t) ∧
    (∃ t, step { State.reset with cpOut := 0xF8, host := [.portWrite .cpDir 0x00] } = .next t) ∧
    (∃ s t, step s = .next t ∧ s.seq = .running ∧ s.host = [.portWrite .cpOut 0x00]) :=
  ⟨(exists_of_goes (p := fun _ => true) (by decide)).imp fun _ h => h.1, ⟨_, rfl⟩,
    ⟨{ acceptCommand (.init 4) State.reset with host := [.portWrite .cpOut 0x00] }, _, rfl, rfl, rfl⟩⟩

/-- WRI and WRD that end Done, and a DISPLAY that drives 0xF0. -/
theorem witness_FourBitModeClearsLowPins :
    (∃ t, exec (.wri 0xC5) (ready .four [0x80, 0x00]) = .next t ∧ t.outcome = some .done) ∧
    (∃ t, exec (.wrd 0xC5) (ready .four [0x80, 0x00]) = .next t ∧ t.outcome = some .done) ∧
    ∃ t, (ready .four (z 3)).width = .four ∧
      exec .display (withText [0x4F] (ready .four (z 3))) = .next t ∧
      .busW 0xF0 ∈ newEvents (withText [0x4F] (ready .four (z 3))) t := by
  refine ⟨done_of_goes (by decide), done_of_goes (by decide), ?_⟩
  obtain ⟨t, ht, h⟩ := exists_of_goes (o := exec .display (withText [0x4F] (ready .four (z 3))))
    (p := fun t => decide (.busW 0xF0 ∈ newEvents (withText [0x4F] (ready .four (z 3))) t)) (by decide)
  exact ⟨t, rfl, ht, by simpa using h⟩

/-- A command of each clause, in both widths. -/
theorem witness_DelayPerCommand :
    (∃ t, exec (.wri 0x01) (ready .eight [0x80, 0x00]) = .next t ∧ t.outcome = some .done) ∧
    (∃ t, exec (.wrd 0x01) (ready .four [0x00]) = .next t ∧ t.outcome = some .done) ∧
    (∃ t, exec .clear (ready .four [0x00]) = .next t ∧ t.outcome = some .done) ∧
    (∃ t, exec (.init 8) { State.reset with answers := z 5 } = .next t ∧ t.outcome = some .done) ∧
    (∃ t, exec (.init 4) { State.reset with answers := z 5 } = .next t ∧ t.outcome = some .done) ∧
    (∃ t, exec .display (withText [0x48] (ready .four (z 3))) = .next t ∧ t.outcome = some .done) :=
  ⟨done_of_goes (by decide), done_of_goes (by decide), done_of_goes (by decide),
    done_of_goes (by decide), done_of_goes (by decide), done_of_goes (by decide)⟩

/-! ## Witnesses: the observer -/

theorem witness_FourBitTransferSeenAsItsByte :
    (ready .four [0x80, 0x00]).width = .four ∧ enLow (ready .four [0x80, 0x00]) = true ∧
    (∃ t, exec (.wri 0xC5) (ready .four [0x80, 0x00]) = .next t ∧ t.outcome = some .done) ∧
    (∃ t, exec (.wrd 0xC5) (ready .four [0x80, 0x00]) = .next t ∧ t.outcome = some .done) :=
  ⟨rfl, by decide, done_of_goes (by decide), done_of_goes (by decide)⟩

theorem witness_EightBitTransferSeenByEdge :
    (∃ t, exec (.wri 0x01) (ready .eight [0x80, 0x00]) = .next t ∧ t.outcome = some .done) ∧
    (enLow (ready .eight [0x80, 0x00]) = true ∧ (ready .eight [0x80, 0x00]).cfg.en8Release = .byMonitor ∧
      ∃ t, exec (.wrd 0x41) (ready .eight [0x80, 0x00]) = .next t ∧ t.outcome = some .done) ∧
    (enLow (byEngine (ready .eight [0x00])) = true ∧ (byEngine (ready .eight [0x00])).cfg.en8Release = .byEngine ∧
      ∃ t, exec (.wrd 0x41) (byEngine (ready .eight [0x00])) = .next t ∧ t.outcome = some .done) :=
  ⟨done_of_goes (by decide), ⟨by decide, rfl, done_of_goes (by decide)⟩, ⟨by decide, rfl, done_of_goes (by decide)⟩⟩

theorem witness_InitSeenInOrder :
    enLow { State.reset with answers := z 5 } = true ∧
    (∃ t, exec (.init 8) { State.reset with answers := z 5 } = .next t ∧ t.outcome = some .done) ∧
    (∃ t, exec (.init 4) { State.reset with answers := z 5 } = .next t ∧ t.outcome = some .done) :=
  ⟨by decide, done_of_goes (by decide), done_of_goes (by decide)⟩

theorem witness_DisplayFillsTheMock :
    ∃ (s t : State), s.width = .eight ∧ enLow s = true ∧ s.cfg.cmdClear = 0x01 ∧ s.cfg.cmdSetDdram = 0x80 ∧
      exec .display s = .next t ∧ t.outcome = some .done := by
  obtain ⟨t, ht, h⟩ := done_of_goes (o := exec .display (withText [0x41, 0x0A, 0x42] (ready .eight (z 5))))
    (by decide)
  exact ⟨_, t, rfl, by decide, rfl, rfl, ht, h⟩

theorem witness_WriteCharacterAtAddress :
    ∃ s : State, s.seq = .idle ∧ s.width ≠ .unset ∧ s.host = [] ∧ waitsReturn s.cfg 2 s.answers = true :=
  ⟨ready .four [0x80, 0x00, 0x00], rfl, by decide, rfl, by decide⟩

/-! ## Witnesses: the statements that are false of the block -/

theorem witness_EveryCommandReturns : ∃ s : State, Inv s ∧ s.seq = .running ∧ s.host = [] :=
  ⟨running [.bfw .b7, .xfer true 0x41 .x8, .wrd 0x41 .ret] (ready .eight [0x80]), inv_of_check (by decide), rfl, rfl⟩

theorem witness_EightBitWriteSeenAtFall :
    ∃ (s t : State), s.width = .eight ∧ s.cfg.en8Release = .byMonitor ∧ enLow s = true ∧
      exec (.wrd 0x41) s = .next t ∧ t.outcome = some .done := by
  obtain ⟨t, ht, h⟩ := done_of_goes (o := exec (.wrd 0x41) (ready .eight [0x00])) (by decide)
  exact ⟨_, t, rfl, rfl, by decide, ht, h⟩

/-- V-DSP-5: the text "A", newline, "B", and the two cells whose transfers the trace holds. -/
theorem witness_NewlineTextHasFreshCells :
    ∃ (s t : State) (cells : List (DdramAddr × Byte)), s.cfg.cmdSetDdram = 0x80 ∧ exec .display s = .next t ∧
      t.outcome = some .done ∧ t.trace = s.trace ++ displayEvents s cells ∧ cells = [(0x00, 0x41), (0x40, 0x42)] := by
  obtain ⟨t, ht, h⟩ := exists_of_goes (o := exec .display (withText [0x41, 0x0A, 0x42] (ready .eight (z 5))))
    (p := fun t => isDone t && t.trace == displayEvents (withText [0x41, 0x0A, 0x42] (ready .eight (z 5)))
      [(0x00, 0x41), (0x40, 0x42)]) (by decide +kernel)
  simp only [Bool.and_eq_true, beq_iff_eq, isDone] at h
  exact ⟨_, t, _, rfl, ht, h.1, h.2, rfl⟩

end Sys2Proof.Machine.Tests
end

section
/-! PROOFS. The four-bit write (spec/30_encoding.md R63). First what any proof about WRI, WRD, CLEAR or DISPLAY can use: the
logic of `Flow`, the one way a transfer ends Done, and the induction that carries a predicate from transfers to whole commands.
Then the values that a four-bit transfer drives onto the bus. -/

namespace Sys2Proof.Machine

/-! ### A predicate of the state a procedure ends in -/

/-- However the procedure ends, in its return or in a halt, the state satisfies `P`; a refusal has no state. -/
def Flow.Ends (P : State → Prop) : Flow → Prop
  | .done s => P s
  | .halted s => P s
  | .refused _ => True

@[simp] theorem Flow.ends_done (P : State → Prop) (s : State) : (Flow.done s).Ends P ↔ P s := Iff.rfl
@[simp] theorem Flow.ends_halted (P : State → Prop) (s : State) : (Flow.halted s).Ends P ↔ P s := Iff.rfl
@[simp] theorem Flow.ends_refused (P : State → Prop) (r : Refusal) : (Flow.refused r).Ends P := trivial

/-- A predicate that the continuation keeps is kept by the sequence. -/
theorem Flow.Ends.andThen {P : State → Prop} {f : Flow} {k : State → Flow} (hf : f.Ends P)
    (hk : ∀ s, P s → (k s).Ends P) : (f.andThen k).Ends P := by
  cases f with
  | done s => exact hk s hf
  | halted s => exact hf
  | refused r => trivial

/-- A command whose body ends in `P` ends in `P`, where returning keeps it. -/
theorem Flow.Ends.of_toOutcome {P : State → Prop} {f : Flow} {t : State} (hf : f.Ends P)
    (hend : ∀ s, P s → P (endCommand .done s)) (ht : f.toOutcome = .next t) : P t := by
  cases f with
  | done s => cases ht; exact hend s hf
  | halted s => cases ht; exact hf
  | refused r => cases ht

/-! ### One transfer -/

/-- A predicate of every state that XFER can leave holds however XFER ends. -/
theorem xfer_ends {P : State → Prop} (callers : List Frame) (kind : Bool) (b : Byte) (s : State)
    (hdone : P (afterTransfer kind b s))
    (hwait : ∀ frames, P (suspendAt frames (inWait kind b s.answers s)))
    (hfault : ∀ n, P (raiseDeviceNotResponding (inWait kind b (s.answers.take n) s))) :
    (xfer callers kind b s).Ends P := by
  obtain ⟨-, h⟩ | ⟨-, -, h⟩ | ⟨-, -, h⟩ | ⟨-, cap, -, -, h⟩ := xfer_cases callers kind b s <;> rw [h]
  · trivial
  · exact hdone
  · exact hwait _
  · exact hfault _

/-- A command that is one transfer ends Done in one way only: its wait returns. -/
theorem xfer_toOutcome_done {callers : List Frame} {kind : Bool} {b : Byte} {s t : State}
    (h : (xfer callers kind b s).toOutcome = .next t) (hd : t.outcome = some .done) :
    s.width ≠ .unset ∧ waitReturns s.cfg s.answers = true ∧ t = endCommand .done (afterTransfer kind b s) := by
  obtain ⟨-, hx⟩ | ⟨hw, hr, hx⟩ | ⟨-, -, hx⟩ | ⟨-, cap, -, -, hx⟩ := xfer_cases callers kind b s <;>
    rw [hx] at h <;> cases h
  · exact ⟨hw, hr, rfl⟩
  · simp at hd
  · simp [raiseDeviceNotResponding_eq] at hd

/-! ### From transfers to commands -/

section
variable {P : State → Prop}
  (hxfer : ∀ callers kind b s, P s → (xfer callers kind b s).Ends P)
  (hwalk : ∀ s cur idx chr, P s → P { s with cur := cur, idx := idx, chr := chr })
include hxfer hwalk

/-- What every transfer keeps and the registers of the text walk do not touch, the walk keeps. -/
theorem textWalk_ends (n : Nat) (s : State) (hs : P s) : (textWalk n s).Ends P := by
  induction n generalizing s with
  | zero => exact hs
  | succ n ih =>
    have hload : P (loadChar s) := hwalk s s.cur s.idx _ hs
    have hline : P (forceLine2 (loadChar s)) := by
      unfold forceLine2
      split
      · exact hwalk _ _ _ _ hload
      · exact hload
    simp only [textWalk]
    split
    · exact hs
    split
    · exact hload
    split
    · exact ih _ (hwalk _ _ _ _ hline)
    · refine (hxfer _ _ _ _ hline).andThen fun s₁ h₁ => ?_
      refine (hxfer _ _ _ _ h₁).andThen fun s₂ h₂ => ?_
      exact ih _ (hwalk _ _ _ _ h₂)

/-- The induction of WRI, WRD, CLEAR and DISPLAY, packaged once: what every transfer keeps, what the registers of the text
walk do not touch and what the return keeps, the command keeps. -/
theorem exec_ends_of_not_init (hend : ∀ s, P s → P (endCommand .done s)) {i : Instr} (hi : ∀ w, i ≠ .init w)
    {s t : State} (hs : P s) (ht : exec i s = .next t) : P t := by
  cases i with
  | wri b => exact (hxfer _ _ _ _ hs).of_toOutcome hend ht
  | wrd b => exact (hxfer _ _ _ _ hs).of_toOutcome hend ht
  | init w => exact absurd rfl (hi w)
  | clear =>
    simp only [exec, execClear] at ht
    split at ht
    · exact (hxfer _ _ _ _ hs).of_toOutcome hend ht
    · cases ht
    · cases ht
  | display =>
    simp only [exec, execDisplay] at ht
    split at ht
    · refine Flow.Ends.of_toOutcome ?_ hend ht
      refine (hxfer _ _ _ _ hs).andThen fun s₁ h₁ => ?_
      exact textWalk_ends hxfer hwalk _ _ (hwalk _ _ _ _ h₁)
    · cases ht
    · cases ht

end

/-! ### What a four-bit transfer puts on the bus -/

theorem mem_busWrites {v : Byte} {es : List Event} : v ∈ busWrites es ↔ .busW v ∈ es := by
  induction es with
  | nil => simp [busWrites]
  | cons e es ih => cases e <;> simp [busWrites, ih]

/-- R63: the two nibbles, the high one first, up to the first poll. -/
theorem busWrites_xferOpenEvents_four (cfg : Config) (kind : Bool) (b : Byte) :
    busWrites (xferOpenEvents cfg .four kind b) = [b &&& 0xF0, (b <<< 4) &&& 0xF0] := rfl

/-- The rest of the transfer drives nothing: the two nibbles are all. -/
theorem busWrites_xferEvents_four (cfg : Config) (kind : Bool) (b c d : Byte) (samples : List Byte) :
    busWrites (xferEvents cfg .four kind b c d samples) = [b &&& 0xF0, (b <<< 4) &&& 0xF0] := by
  simp [xferEvents, strobeEvents, bfwEvents, bfwEnterEvents, busWrites]

/-- R63, R97: each nibble is on the bus before its strobe of EN. -/
theorem writeStrobes_xferEvents_four (cfg : Config) (kind : Bool) (b c d : Byte) (samples : List Byte) :
    writeStrobes (xferEvents cfg .four kind b c d samples) =
      [.busW (b &&& 0xF0), .ctlW .en true, .busW ((b <<< 4) &&& 0xF0), .ctlW .en true] := by
  simp [writeStrobes, xferEvents, strobeEvents, bfwEvents, bfwEnterEvents]

/-! ### The low pins -/

theorem nibMask_clears_lowPins (v : Byte) : (v &&& 0xF0) &&& 0x0F = 0 := by
  rw [BitVec.and_assoc]
  simp

/-- What a four-bit command begun in `s` keeps of its state `t`: WIDTH is still Four, and the bus has been given no value with
a low pin at 1. -/
structure LowPinsClearSince (s t : State) : Prop where
  width : t.width = .four
  events : ∃ es, t.trace = s.trace ++ es ∧ ∀ v ∈ busWrites es, v &&& 0x0F = 0

namespace LowPinsClearSince

theorem refl {s : State} (hw : s.width = .four) : LowPinsClearSince s s :=
  ⟨hw, [], by simp, by simp [busWrites]⟩

/-- It reads no field but WIDTH and the trace. -/
theorem congr {s t u : State} (h : LowPinsClearSince s t) (hw : u.width = t.width) (htr : u.trace = t.trace) :
    LowPinsClearSince s u :=
  ⟨hw.trans h.width, htr ▸ h.events⟩

/-- It goes on over events that drive nothing but the two nibbles of a byte. -/
theorem extend {s t u : State} (h : LowPinsClearSince s t) (hw : u.width = t.width) {es : List Event} {b : Byte}
    (htr : u.trace = t.trace ++ es) (hes : busWrites es = [b &&& 0xF0, (b <<< 4) &&& 0xF0]) :
    LowPinsClearSince s u := by
  obtain ⟨hfour, before, hbefore, hclear⟩ := h
  refine ⟨hw.trans hfour, before ++ es, by rw [htr, hbefore, List.append_assoc], fun v hv => ?_⟩
  rw [busWrites_append, hes, List.mem_append] at hv
  obtain hv | hv := hv
  · exact hclear v hv
  · simp only [List.mem_cons, List.not_mem_nil, or_false] at hv
    obtain rfl | rfl := hv <;> exact nibMask_clears_lowPins _

/-- A transfer keeps it, whether it returns, waits or faults. -/
theorem after_xfer {s t : State} (h : LowPinsClearSince s t) (callers : List Frame) (kind : Bool) (b : Byte) :
    (xfer callers kind b t).Ends (LowPinsClearSince s) := by
  have hopen : busWrites (xferOpenEvents t.cfg t.width kind b) = [b &&& 0xF0, (b <<< 4) &&& 0xF0] := by
    rw [h.width, busWrites_xferOpenEvents_four]
  refine xfer_ends callers kind b t ?done (fun _ => ?wait) (fun n => ?fault)
  case done =>
    exact h.extend rfl (afterTransfer_trace kind b t) (by rw [h.width, busWrites_xferEvents_four])
  case wait =>
    exact h.extend (b := b) rfl (List.append_assoc ..) (by simp [hopen])
  case fault =>
    refine h.extend (b := b) (es := xferOpenEvents t.cfg t.width kind b ++ pollEvents (t.answers.take n) ++
      [.dirW .cp 0xFF, .dirW .bp 0xFF, .dirW .cp t.cpDir, .dirW .bp t.bpDir]) rfl ?_ ?_
    · simp [raiseDeviceNotResponding_eq, inWait]
    · simp [hopen, busWrites]

end LowPinsClearSince

/-! ### The obligation -/

/-- R63 for WRI and WRD that end Done. -/
theorem fourBit_write_done {b : Byte} {k : Bool} {s t : State} (hw : s.width = .four)
    (ht : exec (if k then .wrd b else .wri b) s = .next t) (hd : t.outcome = some .done) :
    t.dreg = b ∧ newEvents s t = xferEvents s.cfg .four k b s.cpDir s.bpDir (waitReads s.answers) := by
  have hx : ∃ callers, (xfer callers k b s).toOutcome = .next t := by
    cases k with
    | false => exact ⟨_, ht⟩
    | true => exact ⟨_, ht⟩
  obtain ⟨callers, hx⟩ := hx
  obtain ⟨-, -, rfl⟩ := xfer_toOutcome_done hx hd
  exact ⟨rfl, newEvents_of_trace (hw ▸ afterTransfer_trace k b s)⟩

/-- Settles O51: a WRI or WRD that ends Done is one transfer, whose events are known; and every state that WRI, WRD, CLEAR or
DISPLAY can end in has `LowPinsClearSince`, by the induction over transfers. -/
theorem fourBitModeClearsLowPins : Obligations.FourBitModeClearsLowPins := by
  unfold Obligations.FourBitModeClearsLowPins
  constructor
  · intro b k s t hw ht hd
    obtain ⟨hdreg, hev⟩ := fourBit_write_done hw ht hd
    rw [hdreg, hev]
    exact ⟨rfl, busWrites_xferEvents_four .., writeStrobes_xferEvents_four .., joinNibbles_nibbles b⟩
  · intro i s t hw hi ht v hv
    have hkept : LowPinsClearSince s t :=
      exec_ends_of_not_init (fun callers kind b u hu => hu.after_xfer callers kind b) (fun u _ _ _ hu => hu.congr rfl rfl)
        (fun u hu => hu.congr rfl rfl) hi (.refl hw) ht
    obtain ⟨-, es, htr, hclear⟩ := hkept
    rw [newEvents_of_trace htr] at hv
    exact hclear v (mem_busWrites.mpr hv)

end Sys2Proof.Machine
end

section
/-! PROOFS. The directions of the pins (spec/40_pin_interface.md R76). First what any proof about the sequencer can use: which
micro-operation one step of it performs, said once for every label of files 41 to 43. Then the bits of a masked direction
register. -/

namespace Sys2Proof.Machine

/-! ### What one step of the sequencer performs -/

/-- A step from `s` to `t` is silent, so it emits nothing; or it is one micro-operation under its guard, and besides that
moves UPC only; or it is the entry into the fault. A direction register is written in seven ways: a whole port becomes outputs
(two ports), pin 7 of the bus becomes an input, or one of the four save slots is loaded. -/
inductive MicroOp (s : State) : State → Prop
  | silent {t : State} (h : t.trace = s.trace) : MicroOp s t
  | outputs (p : Port) (upc : List Frame) : MicroOp s { setDirection p 0xFF true s with upc := upc }
  | busyInput (upc : List Frame) : MicroOp s { setDirection .bp 0x80 false s with upc := upc }
  | restoreSv1Cp (upc : List Frame) : MicroOp s { loadDirection .cp s.sv1Cp s with upc := upc }
  | restoreSv1Bp (upc : List Frame) : MicroOp s { loadDirection .bp s.sv1Bp s with upc := upc }
  | restoreSv2Cp (upc : List Frame) : MicroOp s { loadDirection .cp s.sv2Cp s with upc := upc }
  | restoreSv2Bp (upc : List Frame) : MicroOp s { loadDirection .bp s.sv2Bp s with upc := upc }
  | control (l : Line) (b : Bool) (upc : List Frame) : MicroOp s { setControl l b s with upc := upc }
  | drive (v : Byte) (upc : List Frame) (h : driveBusValid s = true) : MicroOp s { driveBus v s with upc := upc }
  | sample (upc : List Frame) (h : readBusValid s = true) : MicroOp s { sampleBusy s with upc := upc }
  | wait (n : Nat) (upc : List Frame) : MicroOp s { delay n s with upc := upc }
  | fault : MicroOp s (raiseDeviceNotResponding s)

/-- Where this outcome is a next state, it comes from `s` by one micro-operation. -/
def Performs (s : State) : Host.Outcome State Fault Refusal → Prop
  | .next t => MicroOp s t
  | .fault _ => True
  | .refused _ => True

theorem Performs.ite {s : State} {c : Prop} [Decidable c] {a b : Host.Outcome State Fault Refusal}
    (ha : c → Performs s a) (hb : ¬c → Performs s b) : Performs s (if c then a else b) := by
  split
  · exact ha ‹_›
  · exact hb ‹_›

theorem returnWith_performs (o : CmdOutcome) (below : List Frame) (s : State) : Performs s (returnWith o below s) := by
  cases below with
  | nil => exact MicroOp.silent rfl
  | cons f fs => exact MicroOp.silent rfl

theorem driveStep_performs (v : Byte) (f : Frame) (below : List Frame) (s : State) :
    Performs s (driveStep v f below s) :=
  Performs.ite (fun h => MicroOp.drive v _ h) (fun _ => trivial)

theorem wriStep_performs (b : Byte) (below : List Frame) (s : State) : ∀ l, Performs s (wriStep b l below s)
  | .call => MicroOp.silent rfl
  | .ret => returnWith_performs _ _ _

theorem wrdStep_performs (b : Byte) (below : List Frame) (s : State) : ∀ l, Performs s (wrdStep b l below s)
  | .call => MicroOp.silent rfl
  | .ret => returnWith_performs _ _ _

theorem xferStep_performs (k : Bool) (b : Byte) (below : List Frame) (s : State) :
    ∀ l, Performs s (xferStep k b l below s)
  | .x1 | .x2 | .x3 | .e7 | .f3 | .f4 | .f5 => MicroOp.silent rfl
  | .x4 => Performs.ite (fun _ => trivial) (fun _ => MicroOp.silent rfl)
  | .x5 => MicroOp.outputs .cp _
  | .x6 => MicroOp.outputs .bp _
  | .x7 => Performs.ite (fun _ => MicroOp.silent rfl) (fun _ => MicroOp.silent rfl)
  | .x8 => MicroOp.restoreSv1Cp _
  | .x9 => MicroOp.restoreSv1Bp _
  | .e1 | .e3 | .e4 | .e5 | .f1 | .f2 => MicroOp.control _ _ _
  | .e2 => driveStep_performs _ _ _ _
  | .e6 => by
    simp only [xferStep]
    split
    · exact MicroOp.silent rfl
    · exact MicroOp.control _ _ _
  | .ret => returnWith_performs _ _ _

theorem nibpStep_performs (v : Byte) (below : List Frame) (s : State) : ∀ l, Performs s (nibpStep v l below s)
  | .n1 => driveStep_performs _ _ _ _
  | .n2 | .n4 => MicroOp.control _ _ _
  | .n3 | .n5 => MicroOp.wait _ _
  | .ret => returnWith_performs _ _ _

theorem bfwStep_performs (below : List Frame) (s : State) : ∀ l, Performs s (bfwStep l below s)
  | .b1 | .b2 | .b6 | .b10 => MicroOp.silent rfl
  | .b3 => MicroOp.busyInput _
  | .b4 | .b5 | .b7 | .b9 => MicroOp.control _ _ _
  | .b8 => Performs.ite (fun h => MicroOp.sample _ h) (fun _ => trivial)
  | .b11 => Performs.ite (fun _ => Performs.ite (fun _ => MicroOp.fault) (fun _ => MicroOp.silent rfl))
      (fun _ => MicroOp.silent rfl)
  | .b12 => MicroOp.wait _ _
  | .b13 => MicroOp.restoreSv2Cp _
  | .b14 => MicroOp.restoreSv2Bp _
  | .ret => returnWith_performs _ _ _

theorem rawpStep_performs (v : Byte) (n : Nat) (below : List Frame) (s : State) :
    ∀ l, Performs s (rawpStep v n l below s)
  | .p1 | .p2 => MicroOp.silent rfl
  | .p3 => MicroOp.outputs .cp _
  | .p4 => MicroOp.outputs .bp _
  | .p5 | .p7 | .p8 | .p9 | .p10 => MicroOp.control _ _ _
  | .p6 => driveStep_performs _ _ _ _
  | .p11 => MicroOp.wait _ _
  | .p12 => MicroOp.restoreSv1Cp _
  | .p13 => MicroOp.restoreSv1Bp _
  | .ret => returnWith_performs _ _ _

theorem initStep_performs (w : Nat) (below : List Frame) (s : State) : ∀ l, Performs s (initStep w l below s)
  | .i1 => Performs.ite (fun _ => returnWith_performs _ _ _) (fun _ => MicroOp.silent rfl)
  | .i3 => MicroOp.wait _ _
  | .i7 => Performs.ite (fun _ => MicroOp.silent rfl) (fun _ => MicroOp.silent rfl)
  | .i2 | .i4 | .i5 | .i6 | .i8 | .i9 | .i10 | .i11 | .i12 | .i13 | .i14 | .i15 => MicroOp.silent rfl
  | .ret => returnWith_performs _ _ _

theorem clearStep_performs (below : List Frame) (s : State) : ∀ l, Performs s (clearStep l below s)
  | .c1 => Performs.ite (fun _ => MicroOp.silent rfl) (fun _ => trivial)
  | .c2 => MicroOp.silent rfl
  | .ret => returnWith_performs _ _ _

theorem forceLine2_trace (s : State) : (forceLine2 s).trace = s.trace := by
  unfold forceLine2
  split <;> rfl

theorem displayStep_performs (below : List Frame) (s : State) : ∀ l, Performs s (displayStep l below s)
  | .s1 => Performs.ite (fun _ => MicroOp.silent rfl) (fun _ => trivial)
  | .s5 | .s7 => Performs.ite (fun _ => returnWith_performs _ _ _) (fun _ => MicroOp.silent rfl)
  | .s6 => Performs.ite (fun _ => MicroOp.silent rfl) (fun _ => trivial)
  | .s8 => MicroOp.silent (forceLine2_trace s)
  | .s9 => Performs.ite (fun _ => MicroOp.silent rfl) (fun _ => MicroOp.silent rfl)
  | .s2 | .s3 | .s4 | .s10 | .s11 | .s12 | .s13 | .s14 => MicroOp.silent rfl

theorem microStep_performs (s : State) : Performs s (microStep s) := by
  unfold microStep
  split
  · trivial
  · exact wriStep_performs _ _ _ _
  · exact wrdStep_performs _ _ _ _
  · exact initStep_performs _ _ _ _
  · exact clearStep_performs _ _ _
  · exact displayStep_performs _ _ _
  · exact xferStep_performs _ _ _ _ _
  · exact nibpStep_performs _ _ _ _
  · exact rawpStep_performs _ _ _ _ _
  · exact bfwStep_performs _ _ _

/-- What one step of the sequencer can do, whatever the label. -/
theorem microStep_microOp {s t : State} (h : microStep s = .next t) : MicroOp s t := by
  have hp := microStep_performs s
  rwa [h] at hp

/-! ### The one event of a sample -/

theorem sampleBusy_trace (s : State) : ∃ v, (sampleBusy s).trace = s.trace ++ [.busR v] := by
  cases h : s.answers with
  | nil => exact ⟨_, congrArg State.trace (sampleBusy_of_none h)⟩
  | cons v rest => exact ⟨v, congrArg State.trace (sampleBusy_of_answer h)⟩

/-! ### Pins under a mask -/

theorem getBit_maskDirection (d m : Byte) (o : Bool) (k : Fin 8) :
    getBit (maskDirection d m o) k = if getBit m k then o else getBit d k := by
  cases o <;> cases h : getBit m k <;> simp_all [getBit, maskDirection]

/-! ### The obligation -/

/-- R76: the seven ways in which a step emits one DirW. -/
theorem MicroOp.direction_use {s t : State} {p : Port} {v : Byte} (op : MicroOp s t)
    (hev : newEvents s t = [.dirW p v]) :
    ∃ upc, t = { setDirection .cp 0xFF true s with upc := upc } ∨
      t = { setDirection .bp 0xFF true s with upc := upc } ∨
      t = { setDirection .bp 0x80 false s with upc := upc } ∨
      t = { loadDirection .cp s.sv1Cp s with upc := upc } ∨ t = { loadDirection .bp s.sv1Bp s with upc := upc } ∨
      t = { loadDirection .cp s.sv2Cp s with upc := upc } ∨ t = { loadDirection .bp s.sv2Bp s with upc := upc } := by
  cases op with
  | outputs q upc =>
    cases q with
    | cp => exact ⟨upc, .inl rfl⟩
    | bp => exact ⟨upc, .inr (.inl rfl)⟩
  | busyInput upc => exact ⟨upc, .inr (.inr (.inl rfl))⟩
  | restoreSv1Cp upc => exact ⟨upc, .inr (.inr (.inr (.inl rfl)))⟩
  | restoreSv1Bp upc => exact ⟨upc, .inr (.inr (.inr (.inr (.inl rfl))))⟩
  | restoreSv2Cp upc => exact ⟨upc, .inr (.inr (.inr (.inr (.inr (.inl rfl)))))⟩
  | restoreSv2Bp upc => exact ⟨upc, .inr (.inr (.inr (.inr (.inr (.inr rfl)))))⟩
  | silent h => simp [newEvents, h] at hev
  | control l b upc => simp [newEvents] at hev
  | drive w upc => simp [newEvents] at hev
  | sample upc =>
    obtain ⟨w, hw⟩ := sampleBusy_trace s
    simp [newEvents, hw] at hev
  | wait n upc => simp [newEvents] at hev
  | fault => simp [newEvents, raiseDeviceNotResponding_eq] at hev

/-- Settles O10: a masked direction register is known bit by bit, and a step that emits one DirW is one of the direction
writes of `MicroOp`. -/
theorem setDirectionChangesMaskedPins : Obligations.SetDirectionChangesMaskedPins := by
  unfold Obligations.SetDirectionChangesMaskedPins
  constructor
  · intro mask asOutput s
    exact ⟨getBit_maskDirection _ _ _, getBit_maskDirection _ _ _, rfl, rfl⟩
  · intro s t p v ht hev
    exact (microStep_microOp ht).direction_use hev

end Sys2Proof.Machine
end

section
/-! PROOFS. The text of DISPLAY beyond index 31 (spec/43_session_commands.md R115). First another text under a procedure: no
transfer reads TXT, and the walk reads it below index 32 only, so each comes to the same, but for the text. Then the cells of a
text, counted against its newlines. -/

namespace Sys2Proof.Machine

/-! ### Another text in the same state -/

/-- The state with another text, and nothing else changed. -/
def State.withTxt (text : Memory) (s : State) : State := { s with txt := text }

@[simp] theorem State.withTxt_cfg (text : Memory) (s : State) : (s.withTxt text).cfg = s.cfg := rfl
@[simp] theorem State.withTxt_idx (text : Memory) (s : State) : (s.withTxt text).idx = s.idx := rfl
@[simp] theorem State.withTxt_chr (text : Memory) (s : State) : (s.withTxt text).chr = s.chr := rfl

/-- However the procedure ends, the state it leaves with another text; a refusal stays as it is. -/
def Flow.withTxt (text : Memory) : Flow → Flow
  | .done s => .done (s.withTxt text)
  | .halted s => .halted (s.withTxt text)
  | .refused r => .refused r

theorem Flow.next_withTxt {f : Flow} {t : State} (h : f.toOutcome = .next t) (text : Memory) :
    (f.withTxt text).toOutcome = .next (t.withTxt text) := by
  cases f with
  | done s => cases h; rfl
  | halted s => cases h; rfl
  | refused r => cases h

theorem Flow.refused_withTxt {f : Flow} {r : Refusal} (h : f.toOutcome = .refused r) (text : Memory) :
    (f.withTxt text).toOutcome = .refused r := by
  cases f with
  | done s => cases h
  | halted s => cases h
  | refused q => exact h

/-- A transfer does not read the text. -/
theorem xfer_withTxt (callers : List Frame) (kind : Bool) (b : Byte) (text : Memory) (s : State) :
    xfer callers kind b (s.withTxt text) = (xfer callers kind b s).withTxt text := by
  obtain ⟨hw, h⟩ | ⟨hw, hr, h⟩ | ⟨hw, hp, h⟩ | ⟨hw, cap, hc, hf, h⟩ := xfer_cases callers kind b s <;> rw [h]
  · exact xfer_unset hw
  · exact xfer_returns hw hr
  · exact xfer_pending hw hp
  · rw [xfer_faults (s := s.withTxt text) hw hc hf]
    rfl

theorem forceLine2_withTxt (text : Memory) (s : State) :
    forceLine2 (s.withTxt text) = (forceLine2 s).withTxt text := by
  simp only [forceLine2, State.withTxt_idx, apply_ite (State.withTxt text)]
  rfl

theorem loadChar_withTxt (text : Memory) (s : State) :
    loadChar (s.withTxt text) = State.withTxt text { s with chr := Memory.read text s.idx.toNat } := rfl

/-! ### Two texts that a procedure cannot tell apart -/

/-- From the same state with either text the procedure comes to the same, but for the text. -/
def SameForTexts (text text' : Memory) (k : State → Flow) : Prop :=
  ∀ s : State, k (s.withTxt text') = (k (s.withTxt text)).withTxt text'

/-- A transfer in front, of a byte that does not come from the text, keeps that. -/
theorem SameForTexts.after_xfer {text text' : Memory} {k : State → Flow} (hk : SameForTexts text text' k)
    (callers : List Frame) (kind : Bool) {byte : State → Byte} (hbyte : ∀ m s, byte (s.withTxt m) = byte s) :
    SameForTexts text text' fun s => (xfer callers kind (byte s) s).andThen k := by
  intro s
  simp only [xfer_withTxt, hbyte]
  cases xfer callers kind (byte s) s with
  | done t => exact hk t
  | halted t => rfl
  | refused r => rfl

section
variable {text text' : Memory} (hread : ∀ i < 32, Memory.read text i = Memory.read text' i)
include hread

/-- The walk stops at index 32, so texts that agree below it make one walk. -/
theorem textWalk_sameForTexts (n : Nat) : SameForTexts text text' (textWalk n) := by
  induction n with
  | zero => exact fun s => rfl
  | succ n ih =>
    have hchar : SameForTexts text text' fun s =>
        (xfer [.display .s11] false (setDdramByte s.cfg s.cur) s).andThen fun s =>
          (xfer [.display .s12] true s.chr s).andThen fun s => textWalk n (advanceCursor s) :=
      SameForTexts.after_xfer (.after_xfer (fun s => ih (advanceCursor s)) _ _ fun _ _ => rfl) _ _ fun _ _ => rfl
    intro s
    simp only [textWalk, State.withTxt_idx]
    by_cases hend : Config.maxIdx ≤ s.idx.toNat
    · simp only [if_pos hend]
      rfl
    · simp only [if_neg hend, loadChar_withTxt, hread _ (Nat.not_le.mp hend), forceLine2_withTxt, State.withTxt_chr,
        State.withTxt_cfg]
      split
      · rfl
      split
      · exact ih (takeNewline _)
      · exact hchar _

/-- R115: DISPLAY comes to the same with either text, but for the text. -/
theorem exec_display_sameForTexts (s : State) :
    ∃ f : Flow, exec .display (s.withTxt text) = f.toOutcome ∧
      exec .display (s.withTxt text') = (f.withTxt text').toOutcome := by
  have hbody : SameForTexts text text' fun s => (xfer [.display .s3] false s.cfg.cmdClear s).andThen fun s =>
      textWalk (Config.maxIdx + 1) { s with cur := Config.line1Addr, idx := 0 } :=
    SameForTexts.after_xfer (fun s => textWalk_sameForTexts hread _ { s with cur := Config.line1Addr, idx := 0 }) _ _
      fun _ _ => rfl
  cases hs : s.sess with
  | ready =>
    have hexec (m : Memory) : exec .display (s.withTxt m) =
        ((xfer [.display .s3] false s.cfg.cmdClear (s.withTxt m)).andThen fun s =>
          textWalk (Config.maxIdx + 1) { s with cur := Config.line1Addr, idx := 0 }).toOutcome := by
      simp only [exec, execDisplay, State.withTxt, hs]
    exact ⟨_, hexec text, (hexec text').trans (congrArg Flow.toOutcome (hbody s))⟩
  | uninitialized => exact ⟨.refused .notReady, by simp [exec, execDisplay, State.withTxt, hs, Flow.withTxt]⟩
  | initializing => exact ⟨.refused .notReady, by simp [exec, execDisplay, State.withTxt, hs, Flow.withTxt]⟩

end

/-! ### Cells and newlines -/

section
variable {term : Byte} {text : Memory} {i : Nat} (n : Nat) (a : DdramAddr)

theorem textCells_of_term (hterm : Memory.read text i = term) : textCells term text (n + 1) i a = [] := if_pos hterm

theorem textCells_of_newline (hterm : Memory.read text i ≠ term) (hnl : Memory.read text i = 0x0A) :
    textCells term text (n + 1) i a = textCells term text n (i + 1) 0x40 :=
  (if_neg hterm).trans (if_pos hnl)

theorem textCells_of_char (h : isChar term text i) :
    textCells term text (n + 1) i a =
      (if i = 16 then 0x40 else a, Memory.read text i) ::
        textCells term text n (i + 1) ((if i = 16 then 0x40 else a) + 1) :=
  (if_neg h.1).trans (if_neg h.2)

end

/-- Each position of a text fills a cell, or is a newline, or does neither. -/
theorem textCells_length_add_newlines_le (term : Byte) (text : Memory) (n i : Nat) (a : DdramAddr) :
    (textCells term text n i a).length + ((List.range' i n).filter fun j => Memory.read text j = 0x0A).length ≤ n := by
  induction n generalizing i a with
  | zero => simp [textCells]
  | succ n ih =>
    by_cases hterm : Memory.read text i = term
    · rw [textCells_of_term n a hterm, List.length_nil, Nat.zero_add]
      exact (List.length_filter_le ..).trans_eq List.length_range'
    by_cases hnl : Memory.read text i = 0x0A
    · have hrest := ih (i + 1) 0x40
      rw [textCells_of_newline n a hterm hnl, List.range'_succ, List.filter_cons_of_pos (by simpa using hnl),
        List.length_cons]
      omega
    · have hrest := ih (i + 1) ((if i = 16 then 0x40 else a) + 1)
      rw [textCells_of_char n a ⟨hterm, hnl⟩, List.range'_succ, List.filter_cons_of_neg (by simpa using hnl),
        List.length_cons]
      omega

/-! ### The obligation -/

/-- Settles O37: the two runs of DISPLAY are one, but for the text; and the 32 positions of the walk are counted. -/
theorem textBeyond32IsNotSeen : Obligations.TextBeyond32IsNotSeen := by
  unfold Obligations.TextBeyond32IsNotSeen
  constructor
  · intro s text text' hread
    obtain ⟨f, hf, hf'⟩ := exec_display_sameForTexts hread s
    exact ⟨fun t ht => hf'.trans (Flow.next_withTxt (hf.symm.trans ht) text'),
      fun r hr => hf'.trans (Flow.refused_withTxt (hf.symm.trans hr) text')⟩
  · intro term text
    rw [List.range_eq_range']
    exact textCells_length_add_newlines_le term text 32 0 0x00

end Sys2Proof.Machine
end

section
/-! PROOFS. The command word (spec/30_encoding.md R58 to R71). The decoder is characterised once, by the fields of format C; that
it inverts the encoder, and agrees with the mask and match columns of the opcode map, are read off that. -/

namespace Sys2Proof

/-! ### The fields of a word -/

/-- A word is its three fields. -/
theorem word_ext {v w : CmdWord} (hz : zeroField v = zeroField w) (hop : opField v = opField w)
    (harg : argField v = argField w) : v = w := by
  have fields (u : CmdWord) : u = zeroField u ++ opField u ++ argField u := by
    apply BitVec.eq_of_getLsbD_eq
    intro i hi
    simp only [zeroField, opField, argField, BitVec.getLsbD_append, BitVec.getLsbD_extractLsb']
    interval_cases i <;> simp
  rw [fields v, fields w, hz, hop, harg]

/-- A word of format C is known by its fields. -/
theorem eq_formatC_iff {w : CmdWord} {op : BitVec 4} {arg : Byte} :
    w = formatC op arg ↔ zeroField w = 0 ∧ opField w = op ∧ argField w = arg := by
  obtain ⟨hz, hop, harg⟩ := formatC_fields op arg
  constructor
  · rintro rfl
    exact ⟨hz, hop, harg⟩
  · rintro ⟨h1, h2, h3⟩
    exact word_ext (h1.trans hz.symm) (h2.trans hop.symm) (h3.trans harg.symm)

/-! ### The decoder -/

theorem noOperand_eq_ok {i j : Instr} {arg : Byte} : noOperand i arg = .ok j ↔ arg = 0 ∧ i = j := by
  unfold noOperand
  split <;> simp_all

/-- The operand byte of INIT, read back as a number. -/
theorem init_operand_iff {w : Nat} {arg : Byte} :
    arg.toNat = w ↔ (Instr.init w).wf = true ∧ arg = operandOf (.init w) := by
  have := arg.isLt
  simp only [Instr.wf, operandOf, decide_eq_true_eq, ← BitVec.toNat_inj, BitVec.toNat_ofNat]
  omega

/-- What a word decodes to, by its fields (R58 to R60). -/
theorem decode_eq_ok_iff {w : CmdWord} {i : Instr} :
    decode w = .ok i ↔
      i.wf = true ∧ zeroField w = 0 ∧ opField w = opcodeOf i ∧ argField w = operandOf i := by
  have arms : decode w = .ok i ↔ zeroField w = 0 ∧
      ((opField w = opWri ∧ .wri (argField w) = i) ∨ (opField w = opWrd ∧ .wrd (argField w) = i) ∨
        (opField w = opInit ∧ .init (argField w).toNat = i) ∨
        (opField w = opClear ∧ argField w = 0 ∧ .clear = i) ∨
        (opField w = opDisplay ∧ argField w = 0 ∧ .display = i)) := by
    unfold decode
    split_ifs <;> simp_all [noOperand_eq_ok]
  rw [arms]
  cases i with
  | wri b => simp [Instr.wf, opcodeOf, operandOf]
  | wrd b => simp [Instr.wf, opcodeOf, operandOf]
  | init n => simp [init_operand_iff, opcodeOf]; tauto
  | clear => simp [Instr.wf, opcodeOf, operandOf]
  | display => simp [Instr.wf, opcodeOf, operandOf]

/-- The words that decode, by their fields (R66). -/
theorem decodes_iff {w : CmdWord} :
    (∃ i, decode w = .ok i) ↔
      zeroField w = 0 ∧ opField w ∈ [opWri, opWrd, opInit, opClear, opDisplay] ∧
        (opField w ∈ [opClear, opDisplay] → argField w = 0) := by
  simp only [decode_eq_ok_iff]
  constructor
  · rintro ⟨i, -, hz, hop, harg⟩
    rw [hop, harg]
    exact ⟨hz, by cases i <;> simp [opcodeOf], by cases i <;> simp [opcodeOf, operandOf]⟩
  · rintro ⟨hz, hop, harg⟩
    simp only [List.mem_cons, List.not_mem_nil, or_false] at hop
    obtain h | h | h | h | h := hop
    · exact ⟨.wri (argField w), rfl, hz, h, rfl⟩
    · exact ⟨.wrd (argField w), rfl, hz, h, rfl⟩
    · obtain ⟨hwf, hw⟩ := init_operand_iff.mp (rfl : (argField w).toNat = _)
      exact ⟨.init (argField w).toNat, hwf, hz, h, hw⟩
    · exact ⟨.clear, rfl, hz, h, harg (by simp [h])⟩
    · exact ⟨.display, rfl, hz, h, harg (by simp [h])⟩

theorem not_decodes_iff {w : CmdWord} : (∃ e, decode w = .error e) ↔ ¬∃ i, decode w = .ok i := by
  cases decode w <;> simp

/-! ### The mask and match columns -/

/-- A row with mask 0xFF00 looks at bits 15 to 8. -/
theorem and_mask_eq_formatC_iff {w : CmdWord} {op : BitVec 4} :
    w &&& 0xFF00 = formatC op 0 ↔ zeroField w = 0 ∧ opField w = op := by
  have hz : zeroField (w &&& 0xFF00) = zeroField w := by
    apply BitVec.eq_of_getLsbD_eq
    intro i hi
    simp only [zeroField, BitVec.getLsbD_extractLsb', BitVec.getLsbD_and]
    interval_cases i <;> simp
  have hop : opField (w &&& 0xFF00) = opField w := by
    apply BitVec.eq_of_getLsbD_eq
    intro i hi
    simp only [opField, BitVec.getLsbD_extractLsb', BitVec.getLsbD_and]
    interval_cases i <;> simp
  have harg : argField (w &&& 0xFF00) = 0 := by
    apply BitVec.eq_of_getLsbD_eq
    intro i hi
    simp only [argField, BitVec.getLsbD_extractLsb', BitVec.getLsbD_and]
    interval_cases i <;> simp
  rw [eq_formatC_iff, hz, hop, harg, and_iff_left rfl]

/-- A row with mask 0xFFFF looks at every bit. -/
theorem and_ones_eq_formatC_iff {w : CmdWord} {op : BitVec 4} :
    w &&& 0xFFFF = formatC op 0 ↔ zeroField w = 0 ∧ opField w = op ∧ argField w = 0 := by
  rw [show (0xFFFF : CmdWord) = BitVec.allOnes 16 from rfl, BitVec.and_allOnes, eq_formatC_iff]

/-- Whether a word belongs to a row of the opcode map, by its fields. -/
theorem OpRow.holds_iff {r : OpRow} (hr : r ∈ opTable) (w : CmdWord) :
    r.holds w = true ↔
      zeroField w = 0 ∧ opField w = opField r.pattern ∧ (r.mask = 0xFFFF → argField w = 0) := by
  simp only [opTable, List.mem_cons, List.not_mem_nil, or_false] at hr
  rw [OpRow.holds, beq_iff_eq]
  obtain rfl | rfl | rfl | rfl | rfl := hr
  · exact (and_mask_eq_formatC_iff (op := opWri)).trans (by simp [opField])
  · exact (and_mask_eq_formatC_iff (op := opWrd)).trans (by simp [opField])
  · exact (and_mask_eq_formatC_iff (op := opInit)).trans (by simp [opField])
  · exact (and_ones_eq_formatC_iff (op := opClear)).trans (by simp [opField])
  · exact (and_ones_eq_formatC_iff (op := opDisplay)).trans (by simp [opField])

theorem matching_rows (w : CmdWord) :
    opTable.filter (fun r => r.holds w) = opTable.filter fun r => zeroField w = 0 ∧
      opField w = opField r.pattern ∧ (r.mask = 0xFFFF → argField w = 0) :=
  List.filter_congr fun r hr => by rw [Bool.eq_iff_iff, decide_eq_true_eq, OpRow.holds_iff hr]

/-! ### The obligations -/

/-- Settles O1, by evaluation of the decoder on the fifteen words. -/
theorem specWordsDecode : Obligations.SpecWordsDecode := by
  unfold Obligations.SpecWordsDecode
  decide

/-- Settles O2: the fields of the word of a command are the ones the decoder asks for. -/
theorem decodeInvertsEncode : Obligations.DecodeInvertsEncode := by
  unfold Obligations.DecodeInvertsEncode
  intro i hwf
  exact decode_eq_ok_iff.mpr ⟨hwf, formatC_fields _ _⟩

/-- Settles O3: a word with the fields of a command is the word of the command. -/
theorem encodeInvertsDecode : Obligations.EncodeInvertsDecode := by
  unfold Obligations.EncodeInvertsDecode
  intro w i h
  obtain ⟨hwf, hfields⟩ := decode_eq_ok_iff.mp h
  exact ⟨(eq_formatC_iff.mpr hfields).symm, hwf⟩

/-- Settles O4: the rows and the decoder ask the same of the fields of a word. -/
theorem decodeAgreesWithOpcodeMap : Obligations.DecodeAgreesWithOpcodeMap := by
  unfold Obligations.DecodeAgreesWithOpcodeMap
  intro w
  rw [matching_rows]
  cases h : decode w with
  | ok i =>
    obtain ⟨-, hz, hop, harg⟩ := decode_eq_ok_iff.mp h
    rw [hz, hop, harg]
    cases i <;> simp [opTable, opField, opcodeOf, operandOf, mnemonicOf]
  | error e =>
    have hreserved := not_decodes_iff.mp ⟨e, h⟩
    rw [decodes_iff] at hreserved
    suffices hnone : ∀ r ∈ opTable, ¬(zeroField w = 0 ∧ opField w = opField r.pattern ∧
        (r.mask = 0xFFFF → argField w = 0)) by
      simpa [List.filter_eq_nil_iff] using hnone
    rintro r hr ⟨hz, hop, harg⟩
    refine hreserved ⟨hz, ?_⟩
    rw [hop]
    simp only [opTable, List.mem_cons, List.not_mem_nil, or_false] at hr
    obtain rfl | rfl | rfl | rfl | rfl := hr <;> simp_all [opField]

end Sys2Proof
end

section
/-! PROOFS. One step of the machine that runs no procedure (spec/10_state.md R20, R33, R140) and the micro-operations
(spec/40_pin_interface.md R77 to R81): what each does to the state is its definition read off, or the law of a written bit. -/

namespace Sys2Proof.Machine

/-! ### One step of the machine, by what the host does next -/

section
variable {s : State} {rest : List HostAct}

theorem step_reset (h : s.host = .reset :: rest) : step s = .next (resetEvent { s with host := rest }) := by
  simp [step, h]

theorem step_running (hseq : s.seq = .running) (h : s.host.head? ≠ some .reset) : step s = microStep s := by
  unfold step
  split
  · simp_all
  · rfl
  all_goals simp_all

theorem step_waits (hseq : s.seq = .idle) (h : s.host = []) : step s = .next s := by
  simp [step, hseq, h]

theorem step_portWrite {r : PortReg} {v : Byte} (hseq : s.seq = .idle) (h : s.host = .portWrite r v :: rest) :
    step s = .next (foreignWrite r v { s with host := rest }) := by
  simp [step, hseq, h]

theorem step_command {w : CmdWord} {text : Option (List Byte)} {i : Instr} (hseq : s.seq = .idle)
    (h : s.host = .command w text :: rest) (hi : decode w = .ok i) :
    step s = exec i (presentText text { s with host := rest }) := by
  simp [step, hseq, h, hi]

theorem step_reserved {w : CmdWord} {text : Option (List Byte)} {e : DecodeError} (hseq : s.seq = .idle)
    (h : s.host = .command w text :: rest) (he : decode w = .error e) :
    step s = .refused (.reservedCommand e) := by
  simp [step, hseq, h, he]

end

/-- What a step comes to, by SEQ and by the head of the host's list. -/
inductive StepCase (s : State) : Host.Outcome State Fault Refusal → Prop
  | reset {rest : List HostAct} (h : s.host = .reset :: rest) : StepCase s (.next (resetEvent { s with host := rest }))
  | running {o : Host.Outcome State Fault Refusal} (hseq : s.seq = .running) (h : s.host.head? ≠ some .reset)
      (ho : microStep s = o) : StepCase s o
  | waits (hseq : s.seq = .idle) (h : s.host = []) : StepCase s (.next s)
  | portWrite {r : PortReg} {v : Byte} {rest : List HostAct} (hseq : s.seq = .idle)
      (h : s.host = .portWrite r v :: rest) : StepCase s (.next (foreignWrite r v { s with host := rest }))
  | reserved {w : CmdWord} {text : Option (List Byte)} {rest : List HostAct} {e : DecodeError} (hseq : s.seq = .idle)
      (h : s.host = .command w text :: rest) (he : decode w = .error e) : StepCase s (.refused (.reservedCommand e))
  | command {w : CmdWord} {text : Option (List Byte)} {rest : List HostAct} {i : Instr}
      {o : Host.Outcome State Fault Refusal} (hseq : s.seq = .idle) (h : s.host = .command w text :: rest)
      (hi : decode w = .ok i) (ho : exec i (presentText text { s with host := rest }) = o) : StepCase s o

/-- Everything a step can do. -/
theorem step_cases {s : State} {o : Host.Outcome State Fault Refusal} (ho : step s = o) : StepCase s o := by
  subst ho
  by_cases hr : s.host.head? = some .reset
  · obtain ⟨rest, h⟩ := List.head?_eq_some_iff.mp hr
    rw [step_reset h]
    exact .reset h
  cases hseq : s.seq with
  | running => exact .running hseq hr (step_running hseq hr).symm
  | idle =>
    cases h : s.host with
    | nil =>
      rw [step_waits hseq h]
      exact .waits hseq h
    | cons act rest =>
      cases act with
      | reset => exact absurd (by rw [h]; rfl) hr
      | portWrite r v =>
        rw [step_portWrite hseq h]
        exact .portWrite hseq h
      | command w text =>
        cases hd : decode w with
        | error e =>
          rw [step_reserved hseq h hd]
          exact .reserved hseq h hd
        | ok i => exact .command hseq h hd (step_command hseq h hd).symm

/-! ### The levels of the control lines -/

theorem line_setControl_same (l : Line) (b : Bool) (s : State) : line (setControl l b s) l = b := by
  simp [line]

theorem line_setControl_other {l m : Line} (h : m ≠ l) (b : Bool) (s : State) :
    line (setControl l b s) m = line s m := by
  simp [line, linePos_ne s.cfg h]

/-! ### The obligations -/

/-- Settles O6: the one case of `step` for a word that decodes. -/
theorem stepRunsDecodedCommand : Obligations.StepRunsDecodedCommand := by
  unfold Obligations.StepRunsDecodedCommand
  intro s w text rest i hseq h hi
  exact step_command hseq h hi

/-- Settles O7: the cases of `step` that take no command. -/
theorem stepWithoutCommand : Obligations.StepWithoutCommand := by
  unfold Obligations.StepWithoutCommand
  exact ⟨fun s => step_waits, fun s => step_running, fun s v rest hseq =>
    ⟨step_portWrite hseq, step_portWrite hseq, step_portWrite hseq, step_portWrite hseq⟩⟩

/-- Settles O8: the state after the reset event, field by field. -/
theorem resetEndsAnyCommand : Obligations.ResetEndsAnyCommand := by
  unfold Obligations.ResetEndsAnyCommand
  intro s rest h
  exact ⟨_, step_reset h, rfl, rfl, rfl, rfl, rfl, rfl, rfl, rfl, rfl, rfl, rfl, rfl⟩

/-- Settles O9: the reset state, field by field, has nothing to take. -/
theorem resetStateIsIdle : Obligations.ResetStateIsIdle := by
  unfold Obligations.ResetStateIsIdle
  exact ⟨rfl, rfl, rfl, rfl, rfl, rfl, step_waits rfl rfl⟩

/-- Settles O11: one bit of CP_OUT is written. -/
theorem setControlWritesOneLine : Obligations.SetControlWritesOneLine := by
  unfold Obligations.SetControlWritesOneLine
  intro l b s
  exact ⟨line_setControl_same l b s, fun k hk => by simp [hk], fun m hm => line_setControl_other hm b s, rfl⟩

/-- Settles O12: the definitions of the micro-operations, with the two cases of the oracle. -/
theorem busReadWriteAndDelay : Obligations.BusReadWriteAndDelay := by
  unfold Obligations.BusReadWriteAndDelay
  refine ⟨fun v s => rfl, fun v rest s h => ?_, fun s h => ?_, fun v s => ⟨rfl, rfl⟩, fun t s => rfl⟩
  · simp [readBus, h, emit]
  · simp [readBus, h, emit]

/-- Settles O40: no clause of the invariant asks anything of a state with nothing in it, but for IDX = 0. -/
theorem resetMeetsInvariant : Obligations.ResetMeetsInvariant := by
  unfold Obligations.ResetMeetsInvariant
  intro c
  exact { txt_wf := rfl, idle_iff_empty := ⟨fun _ => rfl, fun _ => rfl⟩, ready_has_width := nofun,
          no_error_without_cap := fun _ => rfl, idx_le := Nat.zero_le 32, stack := rfl }

end Sys2Proof.Machine
end

section
/-! PROOFS. What a command run whole can come to. The states that transfers and the text walk reach, the two ways a command stops
short, and the induction over the bodies of all five commands, packaged once as `exec_cases`; then what it leaves unchanged. -/

namespace Sys2Proof.Machine

/-! ### The states a command reaches -/

theorem afterTransfers_append (l r : List (Bool × Byte)) (s : State) :
    afterTransfers (l ++ r) s = afterTransfers r (afterTransfers l s) := by
  induction l generalizing s with
  | nil => rfl
  | cons x l ih => exact ih _

/-- `u` comes from `s` by transfers, each Done, and by writes of the registers of the text walk. -/
def Reached (s u : State) : Prop :=
  ∃ l cur idx chr, u = { afterTransfers l s with cur := cur, idx := idx, chr := chr }

/-- The same, and the last of them is a transfer but for the registers of the text walk. -/
def Transferred (s u : State) : Prop :=
  ∃ v kind b cur idx chr, Reached s v ∧ v.width ≠ .unset ∧
    u = { afterTransfer kind b v with cur := cur, idx := idx, chr := chr }

theorem Reached.refl (s : State) : Reached s s := ⟨[], _, _, _, rfl⟩

theorem Reached.width {s u : State} (h : Reached s u) : u.width = s.width := by
  obtain ⟨l, cur, idx, chr, rfl⟩ := h
  exact afterTransfers_width l s

theorem Reached.sess {s u : State} (h : Reached s u) : u.sess = s.sess := by
  obtain ⟨l, cur, idx, chr, rfl⟩ := h
  exact afterTransfers_sess l s

theorem Reached.errDnr {s u : State} (h : Reached s u) : u.errDnr = s.errDnr := by
  obtain ⟨l, cur, idx, chr, rfl⟩ := h
  exact afterTransfers_errDnr l s

theorem Reached.directions {s u : State} (h : Reached s u) : u.cpDir = s.cpDir ∧ u.bpDir = s.bpDir := by
  obtain ⟨l, cur, idx, chr, rfl⟩ := h
  exact ⟨afterTransfers_cpDir l s, afterTransfers_bpDir l s⟩

theorem Reached.transfer {s u : State} (h : Reached s u) (kind : Bool) (b : Byte) :
    Reached s (afterTransfer kind b u) := by
  obtain ⟨l, cur, idx, chr, rfl⟩ := h
  exact ⟨l ++ [(kind, b)], cur, idx, chr, by rw [afterTransfers_append]; rfl⟩

theorem Reached.walk {s u : State} (h : Reached s u) (cur : DdramAddr) (idx : TextIndex) (chr : Byte) :
    Reached s { u with cur := cur, idx := idx, chr := chr } := by
  obtain ⟨l, -, -, -, rfl⟩ := h
  exact ⟨l, cur, idx, chr, rfl⟩

theorem Transferred.walk {s u : State} (h : Transferred s u) (cur : DdramAddr) (idx : TextIndex) (chr : Byte) :
    Transferred s { u with cur := cur, idx := idx, chr := chr } := by
  obtain ⟨v, kind, b, -, -, -, hv, hw, rfl⟩ := h
  exact ⟨v, kind, b, cur, idx, chr, hv, hw, rfl⟩

theorem Transferred.reached {s u : State} (h : Transferred s u) : Reached s u := by
  obtain ⟨v, kind, b, cur, idx, chr, hv, -, rfl⟩ := h
  exact (hv.transfer kind b).walk cur idx chr

/-- The two ways in which a transfer begun in `u` stops the command short: the wait is still on, or the fault is taken. -/
inductive HaltsFrom (u : State) : State → Prop
  | pending (frames : List Frame) (kind : Bool) (b : Byte) :
      HaltsFrom u (suspendAt frames (inWait kind b u.answers u))
  | fault (kind : Bool) (b : Byte) (n : Nat) :
      HaltsFrom u (raiseDeviceNotResponding (inWait kind b (u.answers.take n) u))

/-! ### The induction over a command -/

/-- A procedure begun in `s`: where it returns, `P` holds; where it stops short, it does so in a transfer from a state it has
reached; and it is refused only where WIDTH is Unset. -/
def Flow.Runs (s : State) (P : State → Prop) : Flow → Prop
  | .done u => P u
  | .halted t => ∃ u, Reached s u ∧ HaltsFrom u t
  | .refused r => r = .useBeforeInit ∧ s.width = .unset

theorem Flow.Runs.andThen {s : State} {P Q : State → Prop} {f : Flow} {k : State → Flow} (hf : f.Runs s P)
    (hk : ∀ u, P u → (k u).Runs s Q) : (f.andThen k).Runs s Q := by
  cases f with
  | done u => exact hk u hf
  | halted t => exact hf
  | refused r => exact hf

theorem Reached.xfer_runs {s u : State} (h : Reached s u) (callers : List Frame) (kind : Bool) (b : Byte) :
    (xfer callers kind b u).Runs s (Transferred s) := by
  obtain ⟨hw, hx⟩ | ⟨hw, -, hx⟩ | ⟨-, -, hx⟩ | ⟨-, cap, -, -, hx⟩ := xfer_cases callers kind b u <;> rw [hx]
  · exact ⟨rfl, h.width.symm.trans hw⟩
  · exact ⟨u, kind, b, u.cur, u.idx, u.chr, h, hw, rfl⟩
  · exact ⟨u, h, .pending ..⟩
  · exact ⟨u, h, .fault ..⟩

theorem Transferred.xfer_runs {s u : State} (h : Transferred s u) (callers : List Frame) (kind : Bool) (b : Byte) :
    (xfer callers kind b u).Runs s (Transferred s) :=
  h.reached.xfer_runs callers kind b

theorem Transferred.textWalk_runs {s u : State} (h : Transferred s u) (n : Nat) :
    (textWalk n u).Runs s (Transferred s) := by
  induction n generalizing u with
  | zero => exact h
  | succ n ih =>
    have hload : Transferred s (loadChar u) := h.walk u.cur u.idx _
    have hline : Transferred s (forceLine2 (loadChar u)) := by
      unfold forceLine2
      split
      · exact hload.walk _ _ _
      · exact hload
    simp only [textWalk]
    split
    · exact h
    split
    · exact hload
    split
    · exact ih (hline.walk _ _ _)
    · refine (hline.xfer_runs _ _ _).andThen fun u₁ h₁ => ?_
      refine (h₁.xfer_runs _ _ _).andThen fun u₂ h₂ => ?_
      exact ih (h₂.walk _ _ _)

theorem initTransfers_runs (w : Nat) (s : State) :
    (initTransfers w s).Runs s fun t => ∃ u, Transferred s u ∧ t = { u with sess := .ready } := by
  unfold initTransfers
  refine ((Reached.refl s).xfer_runs _ _ _).andThen fun u₁ h₁ => ?_
  refine (h₁.xfer_runs _ _ _).andThen fun u₂ h₂ => ?_
  refine (h₂.xfer_runs _ _ _).andThen fun u₃ h₃ => ?_
  refine (h₃.xfer_runs _ _ _).andThen fun u₄ h₄ => ?_
  refine (h₄.xfer_runs _ _ _).andThen fun u₅ h₅ => ?_
  exact ⟨u₅, h₅, rfl⟩

/-- What a command run whole comes to. -/
inductive ExecCase (i : Instr) (s : State) : Host.Outcome State Fault Refusal → Prop
  | noOp {w : Nat} (hi : i = .init w) (hw : initWidth w = none) : ExecCase i s (.next (endCommand .noOp s))
  | done {u : State} (hi : ∀ w, i ≠ .init w) (hu : Transferred s u) : ExecCase i s (.next (endCommand .done u))
  | halted {u t : State} (hi : ∀ w, i ≠ .init w) (hu : Reached s u) (ht : HaltsFrom u t) : ExecCase i s (.next t)
  | initDone {w : Nat} {width : BusWidth} {u : State} (hi : i = .init w) (hw : initWidth w = some width)
      (hu : Transferred (afterInitPulses w width s) u) :
      ExecCase i s (.next (endCommand .done { u with sess := .ready }))
  | initHalted {w : Nat} {width : BusWidth} {u t : State} (hi : i = .init w) (hw : initWidth w = some width)
      (hu : Reached (afterInitPulses w width s) u) (ht : HaltsFrom u t) : ExecCase i s (.next t)
  | useBeforeInit (hi : ∀ w, i ≠ .init w) (hw : s.width = .unset) : ExecCase i s (.refused .useBeforeInit)
  | notReady (hi : i = .clear ∨ i = .display) (hs : s.sess ≠ .ready) : ExecCase i s (.refused .notReady)

/-- A body of WRI, WRD, CLEAR or DISPLAY that runs from `s` makes a case of `exec`. -/
theorem Flow.Runs.execCase {s : State} {f : Flow} (hf : f.Runs s (Transferred s)) {i : Instr}
    (hi : ∀ w, i ≠ .init w) : ExecCase i s f.toOutcome := by
  cases f with
  | done u => exact .done hi hf
  | halted t =>
    obtain ⟨u, hu, ht⟩ := hf
    exact .halted hi hu ht
  | refused r =>
    obtain ⟨rfl, hw⟩ := hf
    exact .useBeforeInit hi hw

/-! ### The fields after the raw pulses of INIT -/

section
variable (w : Nat) (width : BusWidth) (s : State)

@[simp] theorem afterInitPulses_width : (afterInitPulses w width s).width = width := rfl
@[simp] theorem afterInitPulses_cfg : (afterInitPulses w width s).cfg = s.cfg := by
  simp only [afterInitPulses]; split <;> rfl
@[simp] theorem afterInitPulses_sess : (afterInitPulses w width s).sess = .initializing := by
  simp only [afterInitPulses]; split <;> rfl
@[simp] theorem afterInitPulses_errDnr : (afterInitPulses w width s).errDnr = s.errDnr := by
  simp only [afterInitPulses]; split <;> rfl
@[simp] theorem afterInitPulses_cur : (afterInitPulses w width s).cur = s.cur := by
  simp only [afterInitPulses]; split <;> rfl
@[simp] theorem afterInitPulses_idx : (afterInitPulses w width s).idx = s.idx := by
  simp only [afterInitPulses]; split <;> rfl
@[simp] theorem afterInitPulses_chr : (afterInitPulses w width s).chr = s.chr := by
  simp only [afterInitPulses]; split <;> rfl
@[simp] theorem afterInitPulses_txt : (afterInitPulses w width s).txt = s.txt := by
  simp only [afterInitPulses]; split <;> rfl
@[simp] theorem afterInitPulses_host : (afterInitPulses w width s).host = s.host := by
  simp only [afterInitPulses]; split <;> rfl
@[simp] theorem afterInitPulses_cpDir : (afterInitPulses w width s).cpDir = s.cpDir := by
  simp only [afterInitPulses]; split <;> rfl
@[simp] theorem afterInitPulses_bpDir : (afterInitPulses w width s).bpDir = s.bpDir := by
  simp only [afterInitPulses]; split <;> rfl
@[simp] theorem afterInitPulses_answers : (afterInitPulses w width s).answers = s.answers := by
  simp only [afterInitPulses]; split <;> rfl

end

/-! ### The commands, by their premises -/

theorem initWidth_ne_unset {w : Nat} {width : BusWidth} (h : initWidth w = some width) : width ≠ .unset := by
  unfold initWidth at h
  split_ifs at h <;> cases h <;> decide

theorem initWidth_eq_some {w : Nat} {width : BusWidth} :
    initWidth w = some width ↔ (w = 8 ∧ width = .eight) ∨ (w = 4 ∧ width = .four) := by
  unfold initWidth
  split_ifs <;> grind

theorem initWidth_eq_none {w : Nat} : initWidth w = none ↔ w ≠ 4 ∧ w ≠ 8 := by
  unfold initWidth
  split_ifs <;> simp_all

theorem exec_init_of_width {w : Nat} {width : BusWidth} (h : initWidth w = some width) (s : State) :
    exec (.init w) s = (initTransfers w (afterInitPulses w width s)).toOutcome := by
  simp [exec, execInit, h, initPulses_eq]

theorem exec_init_noOp {w : Nat} (h : initWidth w = none) (s : State) :
    exec (.init w) s = .next (endCommand .noOp s) := by
  simp [exec, execInit, h]

theorem exec_clear_ready {s : State} (h : s.sess = .ready) :
    exec .clear s = (xfer [.clear .ret] false s.cfg.cmdClear s).toOutcome := by
  simp [exec, execClear, h]

theorem exec_display_ready {s : State} (h : s.sess = .ready) : exec .display s =
    ((xfer [.display .s3] false s.cfg.cmdClear s).andThen fun s =>
      textWalk (Config.maxIdx + 1) { s with cur := Config.line1Addr, idx := 0 }).toOutcome := by
  simp [exec, execDisplay, h]

theorem exec_clear_not_ready {s : State} (h : s.sess ≠ .ready) : exec .clear s = .refused .notReady := by
  cases hs : s.sess <;> simp_all [exec, execClear]

theorem exec_display_not_ready {s : State} (h : s.sess ≠ .ready) : exec .display s = .refused .notReady := by
  cases hs : s.sess <;> simp_all [exec, execDisplay]

/-- Everything a command can come to. -/
theorem exec_cases {i : Instr} {s : State} {o : Host.Outcome State Fault Refusal} (ho : exec i s = o) :
    ExecCase i s o := by
  subst ho
  have hs := Reached.refl s
  cases i with
  | wri b => exact (hs.xfer_runs _ _ _).execCase (by simp)
  | wrd b => exact (hs.xfer_runs _ _ _).execCase (by simp)
  | init w =>
    cases hw : initWidth w with
    | none =>
      rw [exec_init_noOp hw]
      exact .noOp rfl hw
    | some width =>
      rw [exec_init_of_width hw]
      have hf := initTransfers_runs w (afterInitPulses w width s)
      revert hf
      cases initTransfers w (afterInitPulses w width s) with
      | done t =>
        rintro ⟨u, hu, rfl⟩
        exact .initDone rfl hw hu
      | halted t =>
        rintro ⟨u, hu, ht⟩
        exact .initHalted rfl hw hu ht
      | refused r =>
        rintro ⟨-, hunset⟩
        exact absurd hunset (initWidth_ne_unset hw)
  | clear =>
    by_cases hr : s.sess = .ready
    · rw [exec_clear_ready hr]
      exact (hs.xfer_runs _ _ _).execCase (by simp)
    · rw [exec_clear_not_ready hr]
      exact .notReady (.inl rfl) hr
  | display =>
    by_cases hr : s.sess = .ready
    · rw [exec_display_ready hr]
      refine Flow.Runs.execCase ?_ (by simp)
      exact (hs.xfer_runs _ _ _).andThen fun u hu => (hu.walk _ _ _).textWalk_runs _
    · rw [exec_display_not_ready hr]
      exact .notReady (.inr rfl) hr

/-! ### What no procedure changes -/

/-- What a procedure of the block leaves alone: the parameters, the text, what the host does next, the foreign bits of CP_OUT,
and the events so far. -/
structure Untouched (s t : State) : Prop where
  cfg : t.cfg = s.cfg
  txt : t.txt = s.txt
  host : t.host = s.host
  foreign : sameForeignBits s t
  trace : s.trace <+: t.trace

/-- They are left alone where no field that holds them is written. -/
theorem Untouched.of_eq {s t : State} (hcfg : t.cfg = s.cfg) (htxt : t.txt = s.txt) (hhost : t.host = s.host)
    (hcp : t.cpOut = s.cpOut) (htrace : t.trace = s.trace) : Untouched s t :=
  ⟨hcfg, htxt, hhost, fun _ _ _ _ => by rw [hcp], by rw [htrace]⟩

theorem Untouched.refl (s : State) : Untouched s s := .of_eq rfl rfl rfl rfl rfl

theorem Untouched.trans {s t u : State} (h : Untouched s t) (h' : Untouched t u) : Untouched s u where
  cfg := h'.cfg.trans h.cfg
  txt := h'.txt.trans h.txt
  host := h'.host.trans h.host
  foreign k hrs hrw hen := by
    rw [h'.foreign k (by rwa [h.cfg]) (by rwa [h.cfg]) (by rwa [h.cfg]), h.foreign k hrs hrw hen]
  trace := h.trace.trans h'.trace

/-- Writing the control lines leaves the foreign bits. -/
theorem sameForeignBits_withLines {s t : State} {rs rw en : Bool} (h : t.cpOut = withLines s.cfg s.cpOut rs rw en) :
    sameForeignBits s t := by
  intro k hrs hrw hen
  rw [h, getBit_withLines, if_neg hen, if_neg hrw, if_neg hrs]

theorem untouched_afterTransfer (kind : Bool) (b : Byte) (s : State) : Untouched s (afterTransfer kind b s) :=
  ⟨rfl, rfl, rfl, sameForeignBits_withLines (rs := false) (rw := true) (en := false) rfl, List.prefix_append ..⟩

theorem untouched_afterTransfers (l : List (Bool × Byte)) (s : State) : Untouched s (afterTransfers l s) := by
  induction l generalizing s with
  | nil => exact .refl s
  | cons x l ih => exact (untouched_afterTransfer _ _ s).trans (ih _)

theorem untouched_afterRawPulse (v : Byte) (t : Nat) (s : State) : Untouched s (afterRawPulse v t s) :=
  ⟨rfl, rfl, rfl, sameForeignBits_withLines (rs := false) (rw := false) (en := false) rfl, List.prefix_append ..⟩

theorem untouched_afterInitPulses (w : Nat) (width : BusWidth) (s : State) :
    Untouched s (afterInitPulses w width s) := by
  have hsess : Untouched s { s with sess := .initializing, trace := s.trace ++ [.dly 45000] } :=
    ⟨rfl, rfl, rfl, fun _ _ _ _ => rfl, List.prefix_append ..⟩
  have hwidth (u : State) : Untouched u { u with width := width } := .of_eq rfl rfl rfl rfl rfl
  have hresets := ((hsess.trans (untouched_afterRawPulse s.cfg.cmdFsReset 4100 _)).trans
    (untouched_afterRawPulse s.cfg.cmdFsReset 100 _)).trans (untouched_afterRawPulse s.cfg.cmdFsReset 100 _)
  simp only [afterInitPulses]
  split
  · exact hresets.trans (hwidth _)
  · exact (hresets.trans (untouched_afterRawPulse _ _ _)).trans (hwidth _)

theorem Reached.untouched {s u : State} (h : Reached s u) : Untouched s u := by
  obtain ⟨l, cur, idx, chr, rfl⟩ := h
  obtain ⟨hcfg, htxt, hhost, hforeign, htrace⟩ := untouched_afterTransfers l s
  exact ⟨hcfg, htxt, hhost, hforeign, htrace⟩

theorem HaltsFrom.untouched {u t : State} (h : HaltsFrom u t) : Untouched u t := by
  cases h with
  | pending frames kind b =>
    exact ⟨rfl, rfl, rfl, sameForeignBits_withLines rfl, (List.prefix_append ..).trans (List.prefix_append ..)⟩
  | fault kind b n =>
    rw [raiseDeviceNotResponding_eq]
    exact ⟨rfl, rfl, rfl, sameForeignBits_withLines rfl,
      ((List.prefix_append ..).trans (List.prefix_append ..)).trans (List.prefix_append ..)⟩

/-- The registers of the session and of the text walk, which only INIT and DISPLAY write, stay where a transfer stops short. -/
theorem HaltsFrom.registers {u t : State} (h : HaltsFrom u t) :
    t.width = u.width ∧ t.sess = u.sess ∧ t.cur = u.cur ∧ t.idx = u.idx ∧ t.chr = u.chr := by
  cases h with
  | pending frames kind b => exact ⟨rfl, rfl, rfl, rfl, rfl⟩
  | fault kind b n =>
    rw [raiseDeviceNotResponding_eq]
    exact ⟨rfl, rfl, rfl, rfl, rfl⟩

/-- ERR_DNR is written by the fault only, and the directions are restored where the command has returned. -/
theorem HaltsFrom.errDnr_and_directions {u t : State} (h : HaltsFrom u t) :
    (t.outcome = none ∧ t.seq = .running ∧ t.errDnr = u.errDnr) ∨
      (t.outcome = some .deviceNotResponding ∧ t.seq = .idle ∧ t.errDnr = true ∧ t.cpDir = u.cpDir ∧
        t.bpDir = u.bpDir) := by
  cases h with
  | pending frames kind b => exact .inl ⟨rfl, rfl, rfl⟩
  | fault kind b n =>
    rw [raiseDeviceNotResponding_eq]
    exact .inr ⟨rfl, rfl, rfl, rfl, rfl⟩

theorem HaltsFrom.not_done {u t : State} (h : HaltsFrom u t) : t.outcome ≠ some .done := by
  obtain ⟨ho, -⟩ | ⟨ho, -⟩ := h.errDnr_and_directions <;> simp [ho]

theorem HaltsFrom.errDnr {u t : State} (h : HaltsFrom u t) (ht : t.outcome ≠ some .deviceNotResponding) :
    t.errDnr = u.errDnr := by
  obtain ⟨-, -, he⟩ | ⟨ho, -⟩ := h.errDnr_and_directions
  · exact he
  · exact absurd ho ht

/-- No command, however it ends, touches these. -/
theorem exec_untouched {i : Instr} {s t : State} (h : exec i s = .next t) : Untouched s t := by
  cases exec_cases h with
  | noOp hi hw => exact .of_eq rfl rfl rfl rfl rfl
  | done hi hu => exact hu.reached.untouched.trans (.of_eq rfl rfl rfl rfl rfl)
  | halted hi hu ht => exact hu.untouched.trans ht.untouched
  | initDone hi hw hu =>
    exact ((untouched_afterInitPulses _ _ s).trans hu.reached.untouched).trans (.of_eq rfl rfl rfl rfl rfl)
  | initHalted hi hw hu ht => exact ((untouched_afterInitPulses _ _ s).trans hu.untouched).trans ht.untouched

end Sys2Proof.Machine
end

section
/-! PROOFS. The Transfer Engine's commands, WRI, WRD and CLEAR (spec/42_transfer_engine.md): each is one XFER, so each of its
statements is a case of `xfer_cases`; and the frames of all five commands, from `exec_cases`. -/

namespace Sys2Proof.Machine

/-! ### The samples of a wait -/

theorem busyCount_lt_of_ready {as : List Byte} (h : as.any (fun v => !busyFlag v) = true) :
    busyCount as < as.length := by
  induction as with
  | nil => simp at h
  | cons v as ih =>
    cases hv : busyFlag v with
    | false => simp [busyCount_cons_ready hv]
    | true =>
      have hrest := ih (by simpa [hv] using h)
      simpa [busyCount_cons_busy hv] using hrest

theorem waitReads_length {c : Config} {as : List Byte} (h : waitReturns c as = true) :
    (waitReads as).length = busyCount as + 1 := by
  have hlt := busyCount_lt_of_ready (Bool.and_eq_true_iff.mp h).2
  simp only [waitReads, List.length_take]
  omega

/-- The samples before the first that is not busy are busy. -/
theorem busy_of_mem_take {as : List Byte} {n : Nat} (hn : n ≤ busyCount as) {v : Byte} (hv : v ∈ as.take n) :
    busyFlag v = true := by
  have hpre : as.take n <+: as.takeWhile busyFlag :=
    List.prefix_of_prefix_length_le (List.take_prefix n as) (List.takeWhile_prefix busyFlag)
      ((List.length_take_le n as).trans hn)
  exact List.mem_takeWhile_imp (hpre.subset hv)

theorem pollEvents_length (samples : List Byte) : (pollEvents samples).length = 3 * samples.length := by
  induction samples with
  | nil => rfl
  | cons v vs ih =>
    have hcons : pollEvents (v :: vs) = [.ctlW .en true, .busR v, .ctlW .en false] ++ pollEvents vs := rfl
    rw [hcons, List.length_append, ih]
    simp
    omega

theorem bfwEvents_length (c d : Byte) (samples : List Byte) :
    (bfwEvents c d samples).length = 6 + 3 * samples.length := by
  simp [bfwEvents, bfwEnterEvents, pollEvents_length]
  omega

/-! ### The inverses of `xfer_cases` -/

/-- XFER returns in one way only: its wait returns. -/
theorem xfer_eq_done {callers : List Frame} {kind : Bool} {b : Byte} {s t : State}
    (h : xfer callers kind b s = .done t) :
    s.width ≠ .unset ∧ waitReturns s.cfg s.answers = true ∧ t = afterTransfer kind b s := by
  obtain ⟨-, hx⟩ | ⟨hw, hr, hx⟩ | ⟨-, -, hx⟩ | ⟨-, cap, -, -, hx⟩ := xfer_cases callers kind b s <;>
    rw [hx] at h <;> cases h
  exact ⟨hw, hr, rfl⟩

/-- A command that is one transfer returns Done, or stops short in the transfer. -/
theorem xfer_toOutcome_next {callers : List Frame} {kind : Bool} {b : Byte} {s t : State}
    (h : (xfer callers kind b s).toOutcome = .next t) :
    t = endCommand .done (afterTransfer kind b s) ∨ HaltsFrom s t := by
  obtain ⟨-, hx⟩ | ⟨-, -, hx⟩ | ⟨-, -, hx⟩ | ⟨-, cap, -, -, hx⟩ := xfer_cases callers kind b s <;>
    rw [hx] at h <;> cases h
  · exact .inl rfl
  · exact .inr (.pending ..)
  · exact .inr (.fault ..)

/-- WRI, WRD and CLEAR are one transfer each. -/
theorem exec_one_transfer {i : Instr} {b : Byte} {s t : State} (hi : i = .wri b ∨ i = .wrd b ∨ i = .clear)
    (h : exec i s = .next t) : ∃ callers kind v, (xfer callers kind v s).toOutcome = .next t := by
  obtain rfl | rfl | rfl := hi
  · exact ⟨_, _, _, h⟩
  · exact ⟨_, _, _, h⟩
  · by_cases hr : s.sess = .ready
    · exact ⟨_, _, _, exec_clear_ready hr ▸ h⟩
    · rw [exec_clear_not_ready hr] at h
      cases h

/-- The two commands of the engine, by the kind of byte. -/
theorem exec_engine (k : Bool) (b : Byte) (s : State) :
    exec (if k then .wrd b else .wri b) s = (xfer [if k then .wrd b .ret else .wri b .ret] k b s).toOutcome := by
  cases k <;> rfl

/-! ### The obligations -/

/-- Settles O15: the transfer returns, and the command with it. -/
theorem engineCommandsComplete : Obligations.EngineCommandsComplete := by
  unfold Obligations.EngineCommandsComplete
  intro b s hw hr
  exact ⟨congrArg Flow.toOutcome (xfer_returns hw hr), congrArg Flow.toOutcome (xfer_returns hw hr)⟩

/-- Settles O28: the transfer of CMD_CLEAR returns, and the command with it. -/
theorem clearCompletes : Obligations.ClearCompletes := by
  unfold Obligations.ClearCompletes
  intro s hs hw hr
  rw [exec_clear_ready hs, xfer_returns hw hr]
  rfl

/-- Settles O16: the trace after a transfer that returned, by the width and by EN8_RELEASE. -/
theorem transferEventList : Obligations.TransferEventList := by
  unfold Obligations.TransferEventList
  intro callers k b s t h
  obtain ⟨-, hr, rfl⟩ := xfer_eq_done h
  have hlen := waitReads_length hr
  refine ⟨fun hw he => ⟨?_, ?_⟩, fun hw he => ⟨?_, ?_⟩, fun hw => ⟨?_, ?_⟩⟩
  case refine_1 | refine_3 | refine_5 => simp_all [xferEvents, strobeEvents]
  all_goals
    simp_all [xferEvents, strobeEvents, bfwEvents_length]
    omega

/-- Settles O17: a refusal of WRI or WRD is the one of step X4. -/
theorem engineCommandsNeedWidth : Obligations.EngineCommandsNeedWidth := by
  unfold Obligations.EngineCommandsNeedWidth
  intro b s
  have hwri (hw : s.width = .unset) : exec (.wri b) s = .refused .useBeforeInit := congrArg Flow.toOutcome (xfer_unset hw)
  have hwrd (hw : s.width = .unset) : exec (.wrd b) s = .refused .useBeforeInit := congrArg Flow.toOutcome (xfer_unset hw)
  have hunset {i : Instr} (hi : i = .wri b ∨ i = .wrd b) (h : ∃ r, exec i s = .refused r) : s.width = .unset := by
    obtain ⟨r, h⟩ := h
    cases exec_cases h with
    | useBeforeInit _ hw => exact hw
    | notReady hi' _ => obtain rfl | rfl := hi <;> simp at hi'
  exact ⟨⟨hunset (.inl rfl), fun hw => ⟨_, hwri hw⟩⟩, ⟨hunset (.inr rfl), fun hw => ⟨_, hwrd hw⟩⟩,
    fun hw => ⟨hwri hw, hwrd hw⟩⟩

/-- Settles O18: the state inside the wait after c samples, all busy, with the fault taken. -/
theorem engineCommandsFaultAtCap : Obligations.EngineCommandsFaultAtCap := by
  unfold Obligations.EngineCommandsFaultAtCap
  intro b s c hw hc hle k
  have hfault : waitFaults s.cfg s.answers = true := by simpa [waitFaults, capReached, hc] using hle
  have hlen : (s.answers.take c.val).length = c.val :=
    List.length_take_of_le (hle.trans (busyCount_le s.answers))
  have hne : s.answers.take c.val ≠ [] := List.ne_nil_of_length_pos (c.2.trans_eq hlen.symm)
  have hlast : busyFlag ((s.answers.take c.val).getLast hne) = true :=
    busy_of_mem_take hle (List.getLast_mem hne)
  rw [exec_engine, xfer_faults hw hc hfault, raiseDeviceNotResponding_eq]
  simp [inWait, hlen, List.isEmpty_eq_false_iff.mpr hne, List.getLast?_eq_some_getLast hne, hlast]

/-- Settles O19: the state inside the wait when the answers have run out. -/
theorem engineCommandsWaitWhileBusy : Obligations.EngineCommandsWaitWhileBusy := by
  unfold Obligations.EngineCommandsWaitWhileBusy
  intro b s hw hp k
  rw [exec_engine, xfer_pending hw hp]
  refine ⟨_, rfl, rfl, rfl, rfl, rfl, ?_, ?_, rfl, List.drop_length, rfl⟩
  · simp [line, linePos, inWait, getBit_withLines, Pins.rs_ne_rw, Pins.rs_ne_en]
  · simp [line, linePos, inWait, getBit_withLines, Pins.rw_ne_en]

/-- Settles O20: one transfer, returned or stopped short, and what each leaves alone. -/
theorem transferCommandsFrame : Obligations.TransferCommandsFrame := by
  unfold Obligations.TransferCommandsFrame
  intro i b s t hi h
  obtain ⟨hcfg, htxt, hhost, hforeign, -⟩ := exec_untouched h
  have htext : sameText s t := fun j => by rw [htxt]
  obtain ⟨callers, kind, v, hx⟩ := exec_one_transfer hi h
  obtain rfl | ht := xfer_toOutcome_next hx
  · exact ⟨rfl, rfl, rfl, rfl, rfl, hcfg, hhost, htext, hforeign, fun _ => rfl⟩
  · obtain ⟨hwidth, hsess, hcur, hidx, hchr⟩ := ht.registers
    exact ⟨hwidth, hsess, hcur, hidx, hchr, hcfg, hhost, htext, hforeign, ht.errDnr⟩

/-- Settles O39: DISPLAY reaches its states by transfers and by the registers of the walk. -/
theorem displayFrame : Obligations.DisplayFrame := by
  unfold Obligations.DisplayFrame
  intro s t h
  obtain ⟨hcfg, htxt, hhost, hforeign, -⟩ := exec_untouched h
  have htext : sameText s t := fun j => by rw [htxt]
  cases exec_cases h with
  | noOp hi hw => cases hi
  | initDone hi hw hu => cases hi
  | initHalted hi hw hu ht => cases hi
  | done hi hu =>
    exact ⟨hu.reached.width, hu.reached.sess, hcfg, hhost, htext, hforeign, fun _ => hu.reached.errDnr⟩
  | halted hi hu ht =>
    obtain ⟨hwidth, hsess, -⟩ := ht.registers
    exact ⟨hwidth.trans hu.width, hsess.trans hu.sess, hcfg, hhost, htext, hforeign,
      fun hd => (ht.errDnr hd).trans hu.errDnr⟩

/-- Settles O22: a return restores the directions, in each of the ways a command returns. -/
theorem everyReturnRestoresDirections : Obligations.EveryReturnRestoresDirections := by
  unfold Obligations.EveryReturnRestoresDirections
  intro i s t h hidle
  have hhalt {u : State} (ht : HaltsFrom u t) : t.cpDir = u.cpDir ∧ t.bpDir = u.bpDir := by
    obtain ⟨-, hrun, -⟩ | ⟨-, -, -, hdirs⟩ := ht.errDnr_and_directions
    · rw [hrun] at hidle
      cases hidle
    · exact hdirs
  cases exec_cases h with
  | noOp hi hw => exact ⟨rfl, rfl⟩
  | done hi hu => exact hu.reached.directions
  | halted hi hu ht =>
    rw [← hu.directions.1, ← hu.directions.2]
    exact hhalt ht
  | @initDone w width u hi hw hu => simpa using hu.reached.directions
  | initHalted hi hw hu ht => simpa [hu.directions] using hhalt ht

/-- Settles O29: one transfer of the same byte, whatever it comes to. -/
theorem clearIsWriOfClearByte : Obligations.ClearIsWriOfClearByte := by
  unfold Obligations.ClearIsWriOfClearByte
  intro s hs
  rw [exec_clear_ready hs, show exec (.wri s.cfg.cmdClear) s =
    (xfer [.wri s.cfg.cmdClear .ret] false s.cfg.cmdClear s).toOutcome from rfl]
  have same {o : Host.Outcome State Fault Refusal} (t : State) (h : o = .next t) :
      ∃ u, o = .next u ∧ u.trace = t.trace ∧ t = { u with upc := t.upc } := ⟨t, h, rfl, rfl⟩
  obtain ⟨hw, hx⟩ | ⟨hw, hr, hx⟩ | ⟨hw, hp, hx⟩ | ⟨hw, cap, hc, hf, hx⟩ :=
    xfer_cases [.clear .ret] false s.cfg.cmdClear s <;> rw [hx]
  · rw [xfer_unset hw]
    exact ⟨by simp, fun r => Iff.rfl⟩
  · rw [xfer_returns hw hr]
    exact ⟨same, fun r => Iff.rfl⟩
  · rw [xfer_pending hw hp]
    refine ⟨fun t ht => ?_, fun r => by simp⟩
    cases ht
    exact ⟨suspendAt _ (inWait false s.cfg.cmdClear s.answers s), rfl, rfl, rfl⟩
  · rw [xfer_faults hw hc hf]
    exact ⟨same, fun r => Iff.rfl⟩

/-- Settles O30: the refusal of steps C1 and S1 is the only one with that reason. -/
theorem sessionCommandsNeedReady : Obligations.SessionCommandsNeedReady := by
  unfold Obligations.SessionCommandsNeedReady
  intro s
  have hnot {i : Instr} (h : exec i s = .refused .notReady) : s.sess ≠ .ready := by
    cases exec_cases h with
    | notReady _ hs => exact hs
  exact ⟨⟨hnot, exec_clear_not_ready⟩, ⟨hnot, exec_display_not_ready⟩⟩

/-- Settles O5: no command is refused as reserved, so a step is exactly where its word does not decode. -/
theorem reservedWordsAreRefused : Obligations.ReservedWordsAreRefused := by
  unfold Obligations.ReservedWordsAreRefused
  intro s w text rest hseq h
  have hstep : (∃ e, step s = .refused (.reservedCommand e)) ↔ ¬∃ i, decode w = .ok i := by
    rw [← not_decodes_iff]
    cases hd : decode w with
    | error e => simp [step_reserved hseq h hd]
    | ok i =>
      rw [step_command hseq h hd]
      refine ⟨fun ⟨e, he⟩ => ?_, nofun⟩
      cases exec_cases he
  have hops : ∀ op : BitVec 4, op ∈ [0x0, 0x3, 0x7, 0x8, 0x9, 0xA, 0xB, 0xC, 0xD, 0xE, 0xF] ↔
      op ∉ [opWri, opWrd, opInit, opClear, opDisplay] := by decide
  rw [hstep, decodes_iff]
  change _ ↔ zeroField w ≠ 0 ∨ opField w ∈ _ ∨ (opField w ∈ _ ∧ argField w ≠ 0)
  rw [hops, not_and_or, not_and_or, Classical.not_imp]

end Sys2Proof.Machine
end

section
/-! PROOFS. INIT and DISPLAY (spec/43_session_commands.md): exactly when each ends Done, and in which state; and what INIT leaves
where it does not end. -/

namespace Sys2Proof.Machine

/-! ### When a procedure returns -/

/-- A sequence that begins with a transfer returns exactly when the transfer does and the rest does. -/
theorem xfer_andThen_eq_done {callers : List Frame} {kind : Bool} {b : Byte} {s t : State} {k : State → Flow} :
    (xfer callers kind b s).andThen k = .done t ↔
      s.width ≠ .unset ∧ waitReturns s.cfg s.answers = true ∧ k (afterTransfer kind b s) = .done t := by
  constructor
  · intro h
    obtain ⟨u, hx, hk⟩ : ∃ u, xfer callers kind b s = .done u ∧ k u = .done t := by
      cases hx : xfer callers kind b s with
      | done u => exact ⟨u, rfl, by rwa [hx] at h⟩
      | halted u => rw [hx] at h; cases h
      | refused r => rw [hx] at h; cases h
    obtain ⟨hw, hr, rfl⟩ := xfer_eq_done hx
    exact ⟨hw, hr, hk⟩
  · rintro ⟨hw, hr, hk⟩
    rw [xfer_returns hw hr]
    exact hk

/-- A command has ended Done exactly where its body has returned. -/
theorem Flow.Runs.next_done_iff {s t : State} {P : State → Prop} {f : Flow} (hf : f.Runs s P) :
    (f.toOutcome = .next t ∧ t.outcome = some .done) ↔ ∃ u, f = .done u ∧ t = endCommand .done u := by
  cases f with
  | done u =>
    constructor
    · rintro ⟨h, -⟩
      cases h
      exact ⟨u, rfl, rfl⟩
    · rintro ⟨v, hv, rfl⟩
      cases hv
      exact ⟨rfl, rfl⟩
  | halted v =>
    obtain ⟨u, -, hv⟩ := hf
    refine ⟨fun ⟨h, hd⟩ => ?_, by simp⟩
    cases h
    exact absurd hd hv.not_done
  | refused r => simp

/-! ### INIT -/

theorem initTransfers_eq_done {w : Nat} {s t : State} (hw : s.width ≠ .unset) :
    initTransfers w s = .done t ↔
      waitsReturn s.cfg 5 s.answers = true ∧ t = { afterTransfers (initBytes s.cfg w) s with sess := .ready } := by
  simp [initTransfers, xfer_andThen_eq_done, hw, waitsReturn, initBytes, and_assoc, eq_comm (a := t)]

/-- INIT 4 and INIT 8 end Done exactly when five waits return. -/
theorem exec_init_done_iff {w : Nat} {width : BusWidth} (hw : initWidth w = some width) {s t : State} :
    (exec (.init w) s = .next t ∧ t.outcome = some .done) ↔
      waitsReturn s.cfg 5 s.answers = true ∧ t = endCommand .done (afterInit w width s) := by
  have hset : (afterInitPulses w width s).width ≠ .unset := initWidth_ne_unset hw
  rw [exec_init_of_width hw, (initTransfers_runs w _).next_done_iff]
  simp only [initTransfers_eq_done hset, afterInitPulses_cfg, afterInitPulses_answers, afterInit]
  constructor
  · rintro ⟨u, ⟨hr, rfl⟩, rfl⟩
    exact ⟨hr, rfl⟩
  · rintro ⟨hr, rfl⟩
    exact ⟨_, ⟨hr, rfl⟩, rfl⟩

/-- The events of the raw pulses of INIT. -/
def initPulseEvents (s : State) (w : Nat) : List Event :=
  [.dly 45000] ++ rawPulseEvents s.cfg.cmdFsReset 4100 s.cpDir s.bpDir ++
    rawPulseEvents s.cfg.cmdFsReset 100 s.cpDir s.bpDir ++ rawPulseEvents s.cfg.cmdFsReset 100 s.cpDir s.bpDir ++
    if w = 8 then [] else rawPulseEvents s.cfg.cmdFsSwitch4 600 s.cpDir s.bpDir

theorem afterInitPulses_trace (w : Nat) (width : BusWidth) (s : State) :
    (afterInitPulses w width s).trace = s.trace ++ initPulseEvents s w := by
  simp only [afterInitPulses, initPulseEvents]
  split <;> simp [afterRawPulse]

/-- The whole trace of INIT. -/
theorem afterInit_trace (w : Nat) (width : BusWidth) (s : State) : (afterInit w width s).trace =
    s.trace ++ (initPulseEvents s w ++
      transferEvents s.cfg width s.cpDir s.bpDir (initBytes s.cfg w) s.answers) := by
  simp [afterInit, afterTransfers_trace, afterInitPulses_trace]

/-! ### One pass of the text walk -/

/-- The state with these values in the registers of the text walk, and nothing else changed. -/
def State.atText (cur : DdramAddr) (idx : TextIndex) (chr : Byte) (s : State) : State :=
  { s with cur := cur, idx := idx, chr := chr }

section
variable (cur : DdramAddr) (idx : TextIndex) (chr : Byte) (s : State)

@[simp] theorem State.atText_cfg : (s.atText cur idx chr).cfg = s.cfg := rfl
@[simp] theorem State.atText_width : (s.atText cur idx chr).width = s.width := rfl
@[simp] theorem State.atText_cur : (s.atText cur idx chr).cur = cur := rfl
@[simp] theorem State.atText_idx : (s.atText cur idx chr).idx = idx := rfl
@[simp] theorem State.atText_chr : (s.atText cur idx chr).chr = chr := rfl
@[simp] theorem State.atText_txt : (s.atText cur idx chr).txt = s.txt := rfl
@[simp] theorem State.atText_answers : (s.atText cur idx chr).answers = s.answers := rfl
@[simp] theorem State.atText_trace : (s.atText cur idx chr).trace = s.trace := rfl
@[simp] theorem State.atText_atText (cur' : DdramAddr) (idx' : TextIndex) (chr' : Byte) :
    (s.atText cur' idx' chr').atText cur idx chr = s.atText cur idx chr := rfl

/-- No transfer reads or writes the registers of the walk. -/
@[simp] theorem afterTransfer_atText (kind : Bool) (b : Byte) :
    afterTransfer kind b (s.atText cur idx chr) = (afterTransfer kind b s).atText cur idx chr := rfl

@[simp] theorem afterTransfers_atText (l : List (Bool × Byte)) :
    afterTransfers l (s.atText cur idx chr) = (afterTransfers l s).atText cur idx chr := by
  induction l generalizing s with
  | nil => rfl
  | cons x l ih => exact ih (afterTransfer x.1 x.2 s)

theorem forceLine2_atText : forceLine2 (s.atText cur idx chr) =
    s.atText (if idx.toNat = 16 then 0x40 else cur) idx chr := by
  unfold forceLine2
  split <;> simp_all [State.atText]

@[simp] theorem advanceCursor_atText : advanceCursor (s.atText cur idx chr) = s.atText (cur + 1) (idx + 1) chr := rfl

end

section
variable {s : State} (n : Nat) (hidx : s.idx.toNat < 32)
include hidx

/-- A pass that is not past the end reads the character at IDX. -/
theorem textWalk_succ {c : Byte} (hc : Memory.read s.txt s.idx.toNat = c) :
    textWalk (n + 1) s =
      if c = s.cfg.term then .done (s.atText s.cur s.idx c)
      else if c = 0x0A then textWalk n (s.atText 0x40 (s.idx + 1) c)
      else
        (xfer [.display .s11] false (setDdramByte s.cfg (if s.idx.toNat = 16 then 0x40 else s.cur))
          (s.atText (if s.idx.toNat = 16 then 0x40 else s.cur) s.idx c)).andThen fun s =>
        (xfer [.display .s12] true s.chr s).andThen fun s => textWalk n (advanceCursor s) := by
  have hload : loadChar s = s.atText s.cur s.idx c := by rw [← hc]; rfl
  simp only [textWalk, if_neg (Nat.not_le.mpr hidx), hload, forceLine2_atText, State.atText_chr, State.atText_cfg,
    State.atText_cur]
  rfl

end

section
variable {term : Byte} {text : Memory} {i : Nat} (n : Nat) (a : DdramAddr)

theorem walkStop_of_term (hterm : Memory.read text i = term) : walkStop term text (n + 1) i a = (i, a) := if_pos hterm

theorem walkStop_of_newline (hterm : Memory.read text i ≠ term) (hnl : Memory.read text i = 0x0A) :
    walkStop term text (n + 1) i a = walkStop term text n (i + 1) 0x40 :=
  (if_neg hterm).trans (if_pos hnl)

theorem walkStop_of_char (h : isChar term text i) :
    walkStop term text (n + 1) i a = walkStop term text n (i + 1) ((if i = 16 then 0x40 else a) + 1) :=
  (if_neg h.1).trans (if_neg h.2)

end

/-- A position of a text holds the terminator, a newline or a character. -/
theorem position_cases (term : Byte) (text : Memory) (i : Nat) :
    Memory.read text i = term ∨ (Memory.read text i ≠ term ∧ Memory.read text i = 0x0A) ∨ isChar term text i := by
  by_cases hterm : Memory.read text i = term
  · exact .inl hterm
  by_cases hnl : Memory.read text i = 0x0A
  · exact .inr (.inl ⟨hterm, hnl⟩)
  · exact .inr (.inr ⟨hterm, hnl⟩)

/-! ### The whole walk -/

/-- The state after a walk over the `m` positions from IDX on: the cells transferred, IDX and CUR where it stops, and CHR the last
byte read. -/
def walked (m : Nat) (s : State) : State :=
  let stop := walkStop s.cfg.term s.txt m s.idx.toNat s.cur
  (afterTransfers (cellTransfers s.cfg (textCells s.cfg.term s.txt m s.idx.toNat s.cur)) s).atText stop.2
    (BitVec.ofNat 6 stop.1) (if m = 0 then s.chr else Memory.read s.txt (min stop.1 31))

/-- Where the walk reads position 31 last, CHR holds it. -/
theorem lastChar_eq {term : Byte} {text : Memory} {m i : Nat} (hm : i + (m + 1) = 32) (a : DdramAddr) :
    (if m = 0 then Memory.read text i else Memory.read text (min (walkStop term text m (i + 1) a).1 31)) =
      Memory.read text (min (walkStop term text m (i + 1) a).1 31) := by
  split
  · subst m
    rw [show i = 31 by omega]
    rfl
  · rfl

/-- The walk returns exactly when the waits of its cells do. -/
theorem textWalk_eq_done {m : Nat} {s t : State} (hw : s.width ≠ .unset) (hm : s.idx.toNat + m = 32) :
    textWalk (m + 1) s = .done t ↔
      waitsReturn s.cfg (2 * (textCells s.cfg.term s.txt m s.idx.toNat s.cur).length) s.answers = true ∧
        t = walked m s := by
  induction m generalizing s with
  | zero =>
    have hidx : s.idx.toNat = 32 := hm
    have hstay : walked 0 s = s := by
      simp [walked, walkStop, textCells, cellTransfers, State.atText]
    simp [textWalk, hidx, textCells, waitsReturn, hstay, eq_comm (a := t)]
  | succ m ih =>
    have hidx : s.idx.toNat < 32 := by omega
    have hnext : (s.idx.toNat + 1) % 64 = s.idx.toNat + 1 := by omega
    have hlast := lastChar_eq (term := s.cfg.term) (text := s.txt) hm
    rw [textWalk_succ _ hidx rfl]
    obtain hterm | ⟨hterm, hnl⟩ | hchar := position_cases s.cfg.term s.txt s.idx.toNat
    · have h31 : min s.idx.toNat 31 = s.idx.toNat := by omega
      rw [if_pos hterm, textCells_of_term _ _ hterm, walked, walkStop_of_term _ _ hterm, textCells_of_term _ _ hterm]
      simp [waitsReturn, cellTransfers, h31, eq_comm (a := t)]
    · rw [if_neg hterm, if_pos hnl, ih (by simpa using hw) (by simp [hnext]; omega)]
      simp only [walked, textCells_of_newline _ _ hterm hnl, walkStop_of_newline _ _ hterm hnl]
      simp [hnext, hlast]
    · rw [if_neg hchar.1, if_neg hchar.2]
      simp only [xfer_andThen_eq_done, afterTransfer_atText, advanceCursor_atText, State.atText_chr]
      rw [ih (by simpa using hw) (by simp [hnext]; omega)]
      simp only [walked, textCells_of_char _ _ hchar, walkStop_of_char _ _ hchar]
      simp [hnext, hlast, hw, waitsReturn, Nat.mul_succ, cellTransfers, and_assoc]

/-! ### DISPLAY -/

theorem display_runs (s : State) :
    ((xfer [.display .s3] false s.cfg.cmdClear s).andThen fun s =>
      textWalk (Config.maxIdx + 1) { s with cur := Config.line1Addr, idx := 0 }).Runs s (Transferred s) :=
  ((Reached.refl s).xfer_runs _ _ _).andThen fun _ hu => (hu.walk _ _ _).textWalk_runs _

/-- The state after DISPLAY does not depend on what the registers of the walk held before. -/
theorem afterDisplay_eq_walked (s : State) (chr : Byte) :
    walked 32 ((afterTransfer false s.cfg.cmdClear s).atText 0x00 0 chr) = afterDisplay s := by
  have hdisplay : afterDisplay s = (afterTransfers (displayTransfers s.cfg s.txt) s).atText
      (walkStop s.cfg.term s.txt 32 0 0x00).2 (BitVec.ofNat 6 (walkStop s.cfg.term s.txt 32 0 0x00).1)
      (Memory.read s.txt (min (walkStop s.cfg.term s.txt 32 0 0x00).1 31)) := rfl
  rw [hdisplay]
  simp [walked, displayTransfers, displayCells]

/-- DISPLAY ends Done exactly when its 1 + 2 n waits return. -/
theorem exec_display_done_iff {s t : State} :
    (exec .display s = .next t ∧ t.outcome = some .done) ↔
      s.sess = .ready ∧ s.width ≠ .unset ∧
        waitsReturn s.cfg (1 + 2 * (displayCells s.cfg.term s.txt).length) s.answers = true ∧
        t = endCommand .done (afterDisplay s) := by
  by_cases hs : s.sess = .ready
  · have hwalk (v : State) (hw : s.width ≠ .unset) :
        textWalk (Config.maxIdx + 1) { afterTransfer false s.cfg.cmdClear s with cur := Config.line1Addr, idx := 0 } =
            .done v ↔
          waitsReturn s.cfg (2 * (displayCells s.cfg.term s.txt).length) (waitRest s.answers) = true ∧
            v = afterDisplay s := by
      rw [← afterDisplay_eq_walked s s.chr]
      exact textWalk_eq_done (s := (afterTransfer false s.cfg.cmdClear s).atText 0x00 0 s.chr) (m := 32) hw rfl
    rw [exec_display_ready hs, (display_runs s).next_done_iff, Nat.add_comm 1]
    simp only [xfer_andThen_eq_done, waitsReturn, Bool.and_eq_true, hs, true_and]
    constructor
    · rintro ⟨u, ⟨hw, hr, hu⟩, rfl⟩
      obtain ⟨hrest, rfl⟩ := (hwalk u hw).mp hu
      exact ⟨hw, ⟨hr, hrest⟩, rfl⟩
    · rintro ⟨hw, ⟨hr, hrest⟩, rfl⟩
      exact ⟨_, ⟨hw, hr, (hwalk _ hw).mpr ⟨hrest, rfl⟩⟩, rfl⟩
  · rw [exec_display_not_ready hs]
    simp [hs]

/-! ### What a command that ended Done leaves on the ports -/

@[simp] theorem lastBusW_append (l r : List Event) : lastBusW (l ++ r) = (lastBusW r).or (lastBusW l) := by
  induction l with
  | nil => simp [lastBusW]
  | cons e l ih => cases e <;> simp [lastBusW, ih]

@[simp] theorem lastBusW_pollEvents (samples : List Byte) : lastBusW (pollEvents samples) = none := by
  induction samples with
  | nil => rfl
  | cons v vs ih => simpa [pollEvents, lastBusW] using ih

theorem lastBusW_xferEvents {width : BusWidth} (hw : width ≠ .unset) (cfg : Config) (kind : Bool) (b c d : Byte)
    (samples : List Byte) : lastBusW (xferEvents cfg width kind b c d samples) = some (lastDriven width b) := by
  cases width with
  | unset => exact absurd rfl hw
  | eight => cases h : cfg.en8Release <;> simp [xferEvents, strobeEvents, bfwEvents, bfwEnterEvents, lastBusW, lastDriven, h]
  | four => simp [xferEvents, strobeEvents, bfwEvents, bfwEnterEvents, lastBusW, lastDriven]

theorem lines_of_cpOut {s : State} {v : Byte} {rs rw en : Bool} (h : s.cpOut = withLines s.cfg v rs rw en) :
    line s .rs = rs ∧ line s .rw = rw ∧ line s .en = en := by
  simp [line, linePos, h, getBit_withLines, Pins.rs_ne_rw, Pins.rs_ne_en, Pins.rw_ne_en]

/-- R34, R99: the lines and the bus after the last of the transfers. -/
theorem Transferred.ports {s u : State} (h : Transferred s u) :
    (line u .rs = false ∧ line u .rw = true ∧ line u .en = false) ∧
      ∃ es, u.trace = s.trace ++ es ∧ lastBusW es = some u.bpOut := by
  obtain ⟨v, kind, b, cur, idx, chr, hv, hw, rfl⟩ := h
  obtain ⟨es, hes⟩ := hv.untouched.trace
  refine ⟨lines_of_cpOut rfl, es ++ xferEvents v.cfg v.width kind b v.cpDir v.bpDir (waitReads v.answers), ?_, ?_⟩
  · rw [← List.append_assoc, hes]
    rfl
  · rw [lastBusW_append, lastBusW_xferEvents hw]
    rfl

/-- What every transfer keeps and SESS does not touch, the transfers of INIT keep. -/
theorem initTransfers_ends {P : State → Prop} (hxfer : ∀ callers kind b s, P s → (xfer callers kind b s).Ends P)
    (hsess : ∀ s, P s → P { s with sess := .ready }) (w : Nat) {s : State} (hs : P s) :
    (initTransfers w s).Ends P := by
  unfold initTransfers
  refine (hxfer _ _ _ _ hs).andThen fun u₁ h₁ => ?_
  refine (hxfer _ _ _ _ h₁).andThen fun u₂ h₂ => ?_
  refine (hxfer _ _ _ _ h₂).andThen fun u₃ h₃ => ?_
  refine (hxfer _ _ _ _ h₃).andThen fun u₄ h₄ => ?_
  exact (hxfer _ _ _ _ h₄).andThen fun u₅ h₅ => hsess u₅ h₅

/-- INIT does not write the registers of the text walk. -/
theorem exec_init_walk_registers {w : Nat} {s t : State} (h : exec (.init w) s = .next t) :
    t.cur = s.cur ∧ t.idx = s.idx ∧ t.chr = s.chr := by
  cases hw : initWidth w with
  | none =>
    rw [exec_init_noOp hw] at h
    cases h
    exact ⟨rfl, rfl, rfl⟩
  | some width =>
    rw [exec_init_of_width hw] at h
    refine Flow.Ends.of_toOutcome (P := fun u => u.cur = s.cur ∧ u.idx = s.idx ∧ u.chr = s.chr)
      (initTransfers_ends (fun callers kind b u hu => ?_) (fun u hu => hu) w (by simp)) (fun u hu => hu) h
    exact xfer_ends callers kind b u hu (fun _ => hu) (fun n => by rw [raiseDeviceNotResponding_eq]; exact hu)

/-! ### The obligations -/

/-- The words of spec/30_encoding.md R67. -/
theorem init_word {w : Nat} (hw : w < 256) : 0x0400 + BitVec.ofNat 16 w = encode (.init w) := by
  have hn : (0x0400 + BitVec.ofNat 16 w : CmdWord).toNat = 0x0400 + w := by
    simp
    omega
  refine eq_formatC_iff.mpr ⟨?_, ?_, ?_⟩ <;> apply BitVec.eq_of_toNat_eq
  · rw [zeroField, BitVec.extractLsb'_toNat, hn, Nat.shiftRight_eq_div_pow]
    change _ = 0
    omega
  · rw [opField, BitVec.extractLsb'_toNat, hn, Nat.shiftRight_eq_div_pow]
    change _ = 4
    omega
  · rw [argField, BitVec.extractLsb'_toNat, hn, Nat.shiftRight_eq_div_pow]
    change _ = w % 256
    omega

/-- Settles O23: the 254 operands are counted, and each has its word and no width. -/
theorem unsupportedWidthIsNoOp : Obligations.UnsupportedWidthIsNoOp := by
  unfold Obligations.UnsupportedWidthIsNoOp
  refine ⟨by decide +kernel, fun w s hw h4 h8 => ⟨?_, fun hseq hupc => ?_⟩⟩
  · rw [init_word hw]
    exact decodeInvertsEncode _ (by simpa [Instr.wf] using hw)
  · rw [exec_init_noOp (initWidth_eq_none.mpr ⟨h4, h8⟩), endCommand, ← hseq, ← hupc]

/-- Settles O24: five transfers that return, after the raw pulses. -/
theorem initCompletes : Obligations.InitCompletes := by
  unfold Obligations.InitCompletes
  intro s hr
  exact ⟨((exec_init_done_iff (w := 8) rfl).mpr ⟨hr, rfl⟩).1, ((exec_init_done_iff (w := 4) rfl).mpr ⟨hr, rfl⟩).1⟩

/-- Settles O25: the trace of the state in which INIT ends Done. -/
theorem initEventList : Obligations.InitEventList := by
  unfold Obligations.InitEventList
  intro s hr
  obtain ⟨h8, h4⟩ := initCompletes s hr
  refine ⟨⟨_, h8, ?_, rfl, ?_⟩, ⟨_, h4, ?_, rfl, ?_⟩⟩
  · simp [afterInit]
  · exact (afterInit_trace 8 .eight s).trans (by simp [initPulseEvents, initBytes, initFunctionSet])
  · simp [afterInit]
  · exact (afterInit_trace 4 .four s).trans (by simp [initPulseEvents, initBytes, initFunctionSet])

/-- Settles O26: SESS becomes Ready where the five transfers have returned, and nowhere else. -/
theorem unfinishedInitStaysInitializing : Obligations.UnfinishedInitStaysInitializing := by
  unfold Obligations.UnfinishedInitStaysInitializing
  intro w width s t hww h
  have hwidth := initWidth_eq_some.mpr hww
  cases exec_cases h with
  | noOp hi hw =>
    cases hi
    rw [hwidth] at hw
    cases hw
  | done hi hu => exact absurd rfl (hi w)
  | halted hi hu ht => exact absurd rfl (hi w)
  | initDone hi hw hu =>
    cases hi
    cases hwidth.symm.trans hw
    exact ⟨hu.reached.width, rfl⟩
  | initHalted hi hw hu ht =>
    cases hi
    cases hwidth.symm.trans hw
    obtain ⟨htw, hts, -⟩ := ht.registers
    rw [if_neg ht.not_done, htw, hts, hu.width, hu.sess]
    exact ⟨rfl, afterInitPulses_sess w width s⟩

/-- Settles O27: no refusal is a case of INIT, and its raw pulses and transfers leave the rest alone. -/
theorem initFrame : Obligations.InitFrame := by
  unfold Obligations.InitFrame
  intro w s
  refine ⟨fun r h => ?_, fun t h => ?_⟩
  · cases exec_cases h with
    | useBeforeInit hi _ => exact hi w rfl
    | notReady hi _ => simp at hi
  · obtain ⟨hcfg, htxt, hhost, hforeign, -⟩ := exec_untouched h
    have htext : sameText s t := fun j => by rw [htxt]
    obtain ⟨hcur, hidx, hchr⟩ := exec_init_walk_registers h
    refine ⟨hcur, hidx, hchr, hcfg, hhost, htext, hforeign, fun hd => ?_⟩
    cases exec_cases h with
    | noOp hi hw => rfl
    | done hi hu => exact absurd rfl (hi w)
    | halted hi hu ht => exact absurd rfl (hi w)
    | initDone hi hw hu => exact hu.reached.errDnr.trans (afterInitPulses_errDnr ..)
    | initHalted hi hw hu ht => exact ((ht.errDnr hd).trans hu.errDnr).trans (afterInitPulses_errDnr ..)

/-- Settles O21: the last transfer of a command that ended Done, and the last writes of a raw pulse. -/
theorem completedCommandLeavesPorts : Obligations.CompletedCommandLeavesPorts := by
  unfold Obligations.CompletedCommandLeavesPorts
  refine ⟨fun i s t h hd => ?_, fun v n s => ?_⟩
  · have hforeign := (exec_untouched h).foreign
    cases exec_cases h with
    | noOp hi hw => cases hd
    | done hi hu =>
      obtain ⟨⟨hrs, hrw, hen⟩, es, htr, hlast⟩ := hu.ports
      obtain ⟨hcp, hbp⟩ := hu.reached.directions
      exact ⟨hrs, hrw, hen, hcp, hbp, newEvents_of_trace htr ▸ hlast, hforeign⟩
    | halted hi hu ht => exact absurd hd ht.not_done
    | @initDone w width u hi hw hu =>
      obtain ⟨⟨hrs, hrw, hen⟩, es, htr, hlast⟩ := hu.ports
      obtain ⟨hcp, hbp⟩ := hu.reached.directions
      rw [afterInitPulses_trace, List.append_assoc] at htr
      refine ⟨hrs, hrw, hen, hcp.trans (by simp), hbp.trans (by simp), ?_, hforeign⟩
      have hnew : newEvents s (endCommand .done { u with sess := .ready }) = initPulseEvents s w ++ es :=
        newEvents_of_trace htr
      rw [hnew, lastBusW_append, hlast]
      rfl
    | initHalted hi hw hu ht => exact absurd hd ht.not_done
  · rw [rawPulse_eq]
    obtain ⟨hrs, hrw, hen⟩ := lines_of_cpOut (s := afterRawPulse v n s) (rs := false) (rw := false) (en := false) rfl
    exact ⟨hrs, hrw, hen, rfl, rfl, rfl⟩

end Sys2Proof.Machine
end

section
/-! PROOFS. Which cells a text fills, and where the cursor stands (spec/43_session_commands.md R111 to R120): facts about
`textCells` and `walkStop`, and what they say of a DISPLAY that ends Done. -/

namespace Sys2Proof.Machine

/-! ### Cells of a text, split by position -/

/-- A text with no terminator in its first `n` positions: the walk goes over them and then on. -/
theorem textCells_append {term : Byte} {text : Memory} {n i : Nat} (m : Nat) (a : DdramAddr)
    (h : ∀ j < n, Memory.read text (i + j) ≠ term) :
    (walkStop term text n i a).1 = i + n ∧
      textCells term text (n + m) i a =
        textCells term text n i a ++ textCells term text m (i + n) (walkStop term text n i a).2 := by
  induction n generalizing i a with
  | zero => simp [walkStop, textCells]
  | succ n ih =>
    have hterm : Memory.read text i ≠ term := h 0 (Nat.succ_pos n)
    have hrest (a : DdramAddr) := ih (i := i + 1) a fun j hj => by
      have := h (j + 1) (Nat.succ_lt_succ hj)
      rwa [show i + (j + 1) = i + 1 + j by omega] at this
    rw [show n + 1 + m = (n + m) + 1 by omega, show i + (n + 1) = i + 1 + n by omega]
    by_cases hnl : Memory.read text i = 0x0A
    · rw [walkStop_of_newline _ _ hterm hnl, textCells_of_newline _ _ hterm hnl, textCells_of_newline _ _ hterm hnl]
      exact hrest 0x40
    · rw [walkStop_of_char _ _ ⟨hterm, hnl⟩, textCells_of_char _ _ ⟨hterm, hnl⟩, textCells_of_char _ _ ⟨hterm, hnl⟩]
      obtain ⟨hstop, hcells⟩ := hrest ((if i = 16 then 0x40 else a) + 1)
      exact ⟨hstop, by rw [hcells, List.cons_append]⟩

/-- Characters on line 1 go to the addresses of their positions. -/
theorem textCells_line1 {term : Byte} {text : Memory} {n i : Nat} (m : Nat) (hn : i + n ≤ 16)
    (h : ∀ j < n, isChar term text (i + j)) :
    walkStop term text n i (BitVec.ofNat 7 i) = (i + n, BitVec.ofNat 7 (i + n)) ∧
      textCells term text (n + m) i (BitVec.ofNat 7 i) =
        ((List.range' i n).map fun j => (BitVec.ofNat 7 j, Memory.read text j)) ++
          textCells term text m (i + n) (BitVec.ofNat 7 (i + n)) := by
  induction n generalizing i with
  | zero => simp [walkStop]
  | succ n ih =>
    have hchar : isChar term text i := h 0 (Nat.succ_pos n)
    have hrest := ih (i := i + 1) (by omega) fun j hj => by
      have := h (j + 1) (Nat.succ_lt_succ hj)
      rwa [show i + (j + 1) = i + 1 + j by omega] at this
    have hcur : (if i = 16 then 0x40 else BitVec.ofNat 7 i) = BitVec.ofNat 7 i := if_neg (by omega)
    have hnext : BitVec.ofNat 7 i + 1 = BitVec.ofNat 7 (i + 1) := by
      rw [← BitVec.toNat_inj, BitVec.toNat_add, BitVec.toNat_ofNat, BitVec.toNat_ofNat]
      simp
    rw [show n + 1 + m = (n + m) + 1 by omega, show i + (n + 1) = i + 1 + n by omega, walkStop_of_char _ _ hchar,
      textCells_of_char _ _ hchar, hcur, hnext, List.range'_succ, List.map_cons, List.cons_append]
    obtain ⟨hstop, hcells⟩ := hrest
    exact ⟨hstop, by rw [hcells]⟩

/-- The cells of a text that begins with `n` characters on line 1. -/
theorem displayCells_line1 {term : Byte} {text : Memory} {n m : Nat} (hn : n ≤ 16) (hm : n + m = 32)
    (h : ∀ j < n, isChar term text j) :
    displayCells term text = ((List.range n).map fun j => (BitVec.ofNat 7 j, Memory.read text j)) ++
      textCells term text m n (BitVec.ofNat 7 n) := by
  obtain ⟨-, hcells⟩ := textCells_line1 (n := n) (i := 0) m (by omega) (by simpa using h)
  rw [hm, Nat.zero_add, ← List.range_eq_range'] at hcells
  exact hcells

/-- The next character after the cursor went to line 2 is written at 0x40. -/
theorem head_textCells_line2 (term : Byte) (text : Memory) (n i : Nat) :
    ∀ cell, (textCells term text n i 0x40).head? = some cell → cell.1 = 0x40 := by
  induction n generalizing i with
  | zero => simp [textCells]
  | succ n ih =>
    obtain hterm | ⟨hterm, hnl⟩ | hchar := position_cases term text i
    · simp [textCells_of_term _ _ hterm]
    · rw [textCells_of_newline _ _ hterm hnl]
      exact ih (i + 1)
    · simp [textCells_of_char _ _ hchar]

/-- Position 16 forces the cursor, so the next character is written at 0x40 wherever the cursor stands. -/
theorem head_textCells_sixteen (term : Byte) (text : Memory) (n : Nat) (a : DdramAddr) :
    ∀ cell, (textCells term text n 16 a).head? = some cell → cell.1 = 0x40 := by
  cases n with
  | zero => simp [textCells]
  | succ n =>
    obtain hterm | ⟨hterm, hnl⟩ | hchar := position_cases term text 16
    · simp [textCells_of_term _ _ hterm]
    · rw [textCells_of_newline _ _ hterm hnl]
      exact head_textCells_line2 term text n 17
    · simp [textCells_of_char _ _ hchar]

/-! ### Where the cursor can stand (R119) -/

/-- Where index and cursor can stand at the loop test S5. -/
def AtTest (i : Nat) (a : DdramAddr) : Prop :=
  i ≤ 32 ∧ ((a.toNat ≤ i ∧ i ≤ 16) ∨
    (0x40 ≤ a.toNat ∧ a.toNat ≤ 0x40 + if i ≤ 16 then i else i - 16))

/-- Where they can stand when a character is written. -/
def AtWrite (i : Nat) (a : DdramAddr) : Prop :=
  i < 32 ∧ ((a.toNat ≤ i ∧ i < 16) ∨
    (0x40 ≤ a.toNat ∧ a.toNat ≤ 0x40 + if i < 16 then i else i - 16))

theorem AtTest.start : AtTest 0 0x00 := by simp [AtTest]

theorem AtTest.newline {i : Nat} (hi : i < 32) : AtTest (i + 1) 0x40 := by
  refine ⟨hi, .inr ?_⟩
  simp

/-- Step S8. -/
theorem AtTest.force {i : Nat} {a : DdramAddr} (h : AtTest i a) (hi : i < 32) :
    AtWrite i (if i = 16 then 0x40 else a) := by
  obtain ⟨-, h⟩ := h
  refine ⟨hi, ?_⟩
  by_cases h16 : i = 16
  · simp [h16]
  · rw [if_neg h16]
    split_ifs at h ⊢ <;> omega

/-- Steps S12 and S13. -/
theorem AtWrite.advance {i : Nat} {a : DdramAddr} (h : AtWrite i a) : AtTest (i + 1) (a + 1) := by
  obtain ⟨hi, h⟩ := h
  have ha : (a + 1).toNat = a.toNat + 1 := by
    rw [BitVec.toNat_add]
    refine Nat.mod_eq_of_lt ?_
    split_ifs at h <;> simp <;> omega
  refine ⟨hi, ?_⟩
  rw [ha]
  split_ifs at h ⊢ <;> omega

theorem AtWrite.visible {i : Nat} {a : DdramAddr} (h : AtWrite i a) :
    a.toNat < 0x10 ∨ (0x40 ≤ a.toNat ∧ a.toNat < 0x50) := by
  obtain ⟨hi, h⟩ := h
  split_ifs at h <;> omega

theorem AtTest.bound {i : Nat} {a : DdramAddr} (h : AtTest i a) :
    a.toNat ≤ 0x10 ∨ (0x40 ≤ a.toNat ∧ a.toNat ≤ 0x50) := by
  obtain ⟨hi, h⟩ := h
  split_ifs at h <;> omega

/-- The walk writes visible cells only, and stops where the cursor may stand. -/
theorem AtTest.walk {term : Byte} {text : Memory} {n i : Nat} {a : DdramAddr} (h : AtTest i a) (hn : i + n ≤ 32) :
    (∀ cell ∈ textCells term text n i a, cell.1.toNat < 0x10 ∨ (0x40 ≤ cell.1.toNat ∧ cell.1.toNat < 0x50)) ∧
      AtTest (walkStop term text n i a).1 (walkStop term text n i a).2 := by
  induction n generalizing i a with
  | zero => exact ⟨by simp [textCells], h⟩
  | succ n ih =>
    have hi : i < 32 := by omega
    obtain hterm | ⟨hterm, hnl⟩ | hchar := position_cases term text i
    · rw [textCells_of_term _ _ hterm, walkStop_of_term _ _ hterm]
      exact ⟨by simp, h⟩
    · rw [textCells_of_newline _ _ hterm hnl, walkStop_of_newline _ _ hterm hnl]
      exact ih (.newline hi) (by omega)
    · have hwrite := h.force hi
      obtain ⟨hcells, hstop⟩ := ih hwrite.advance (by omega)
      rw [textCells_of_char _ _ hchar, walkStop_of_char _ _ hchar]
      exact ⟨List.forall_mem_cons.mpr ⟨hwrite.visible, hcells⟩, hstop⟩

/-- R65, with the default CMD_SET_DDRAM. -/
theorem setDdramByte_toNat {c : Config} (h : c.cmdSetDdram = 0x80) (a : DdramAddr) :
    (setDdramByte c a).toNat = 0x80 + a.toNat := by
  have hor : ∀ a : DdramAddr, (0x80#8 ||| a.zeroExtend 8).toNat = 0x80 + a.toNat := by decide
  rw [setDdramByte, h]
  exact hor a

/-! ### A DISPLAY that ends Done -/

section
variable {s t : State} (h : exec .display s = .next t) (hd : t.outcome = some .done)
include h hd

theorem display_done : t = endCommand .done (afterDisplay s) := by
  obtain ⟨-, -, -, ht⟩ := exec_display_done_iff.mp ⟨h, hd⟩
  exact ht

/-- Its trace is the events of the clear and of the cells of its text. -/
theorem display_done_trace : t.trace = s.trace ++ displayEvents s (displayCells s.cfg.term s.txt) := by
  rw [display_done h hd]
  exact afterTransfers_trace _ s

end

/-! ### The obligations -/

/-- Settles O31: the waits of the clear and of the cells return. -/
theorem displayCompletes : Obligations.DisplayCompletes := by
  unfold Obligations.DisplayCompletes
  intro s hs hw hr
  exact (exec_display_done_iff.mpr ⟨hs, hw, hr, rfl⟩).1

/-- Settles O32, by the trace of the state in which DISPLAY ends Done. -/
theorem displayEventList : Obligations.DisplayEventList := by
  unfold Obligations.DisplayEventList
  intro s t h hd
  exact display_done_trace h hd

/-- Settles O38: the state in which DISPLAY ends Done does not depend on the registers of the walk. -/
theorem displayForgetsCursor : Obligations.DisplayForgetsCursor := by
  unfold Obligations.DisplayForgetsCursor
  intro s t cur idx chr h hd
  obtain ⟨hs, hw, hr, rfl⟩ := exec_display_done_iff.mp ⟨h, hd⟩
  have hsame : afterDisplay (s.atText cur idx chr) = afterDisplay s := by
    rw [← afterDisplay_eq_walked _ 0, ← afterDisplay_eq_walked s 0]
    rfl
  rw [← hsame]
  exact (exec_display_done_iff (s := s.atText cur idx chr).mpr ⟨hs, hw, hr, rfl⟩).1

/-- Settles O33: the characters stand on line 1, and the terminator ends the walk. -/
theorem shortTextOnLineOne : Obligations.ShortTextOnLineOne := by
  unfold Obligations.ShortTextOnLineOne
  intro s t chars hlen hchars htext h hd
  have hread (j : Nat) : Memory.read s.txt j = ((chars ++ [s.cfg.term])[j]?).getD Memory.unlisted := by
    rw [htext, Memory.read_ofBytes]
  have hchar (j : Nat) (hj : j < chars.length) : Memory.read s.txt j = chars[j] := by
    simp [hread, List.getElem?_append_left hj, hj]
  have hcells : displayCells s.cfg.term s.txt = chars.zipIdx.map fun c => (BitVec.ofNat 7 c.2, c.1) := by
    obtain ⟨m, hm⟩ : ∃ m, 32 = chars.length + (m + 1) := ⟨31 - chars.length, by omega⟩
    have hend : Memory.read s.txt chars.length = s.cfg.term := by simp [hread]
    have hline (j : Nat) (hj : j < chars.length) : isChar s.cfg.term s.txt j := by
      rw [isChar, hchar j hj]
      exact hchars _ (List.getElem_mem hj)
    rw [displayCells_line1 hlen hm.symm hline, textCells_of_term _ _ hend, List.append_nil]
    apply List.ext_getElem
    · simp
    · intro j hj hj'
      simp [hchar j (by simpa using hj)]
  have haddr (c : Byte × Nat) (hc : c ∈ chars.zipIdx) :
      setDdramByte s.cfg (BitVec.ofNat 7 c.2) = s.cfg.cmdSetDdram ||| BitVec.ofNat 8 c.2 := by
    have hlt : c.2 < chars.length := by simpa using (List.mem_zipIdx hc).2.1
    rw [setDdramByte]
    congr 1
    rw [← BitVec.toNat_inj]
    simp
    omega
  rw [display_done_trace h hd, hcells, displayEvents, cellTransfers, List.flatMap_map]
  congr 3
  exact List.flatMap_congr fun c hc => by rw [haddr c hc]

/-- Settles O34: position 16 splits the cells of a text. -/
theorem positionSixteenOnLineTwo : Obligations.PositionSixteenOnLineTwo := by
  unfold Obligations.PositionSixteenOnLineTwo
  have hsixteen (term : Byte) (text : Memory) (hterm : ∀ i < 16, Memory.read text i ≠ term)
      (hchar : isChar term text 16) :
      ∃ rest, displayCells term text = textCells term text 16 0 0x00 ++ (0x40, Memory.read text 16) :: rest := by
    obtain ⟨-, hcells⟩ := textCells_append (i := 0) 16 0x00 (by simpa using hterm)
    exact ⟨_, hcells.trans (by rw [textCells_of_char _ _ hchar]; rfl)⟩
  refine ⟨fun s => ⟨fun hi => ?_, fun hi => ?_⟩, hsixteen, fun term text h => ?_, fun s t h hd => ⟨?_, ?_⟩⟩
  · simp [forceLine2, hi]
  · refine if_neg fun h16 => hi ?_
    rw [← BitVec.toNat_inj]
    exact h16
  · refine ⟨(textCells_line1 (i := 0) 16 (le_refl 16) (by simpa using h)).1, fun cell hcell => ?_⟩
    refine head_textCells_sixteen term text 16 0x10 cell ?_
    rw [List.head?_eq_getElem?, ← hcell, displayCells_line1 (m := 16) (le_refl 16) rfl h, List.getElem?_append_right (by simp)]
    rfl
  · intro hterm hchar
    obtain ⟨rest, hcells⟩ := hsixteen _ _ hterm hchar
    exact ⟨rest, hcells ▸ display_done_trace h hd⟩
  · intro hchars
    refine ⟨textCells s.cfg.term s.txt 16 16 0x10, ?_, head_textCells_sixteen _ _ _ _⟩
    rw [display_done_trace h hd, displayCells_line1 (m := 16) (le_refl 16) rfl hchars]
    rfl

/-- Settles O35: a newline splits the cells of a text. -/
theorem newlineGoesToLineTwo : Obligations.NewlineGoesToLineTwo := by
  unfold Obligations.NewlineGoesToLineTwo
  have hsplit (term : Byte) (text : Memory) (k : Nat) (hk : k + 1 < 32) (hbefore : ∀ i < k, Memory.read text i ≠ term)
      (hnl : term ≠ 0x0A) (hread : Memory.read text k = 0x0A) (hchar : isChar term text (k + 1)) :
      ∃ rest, displayCells term text =
        textCells term text k 0 0x00 ++ (0x40, Memory.read text (k + 1)) :: rest := by
    obtain ⟨n, hn⟩ : ∃ n, 32 = k + (n + 1 + 1) := ⟨30 - k, by omega⟩
    obtain ⟨-, hcells⟩ := textCells_append (i := 0) (n + 1 + 1) 0x00 (by simpa using hbefore)
    rw [displayCells, hn, hcells, Nat.zero_add, textCells_of_newline _ _ (hread ▸ hnl.symm) hread,
      textCells_of_char _ _ hchar, ite_self]
    exact ⟨_, rfl⟩
  refine ⟨hsplit, fun s t k h hd hk hbefore hnl hread hchar => ?_⟩
  obtain ⟨rest, hcells⟩ := hsplit _ _ k hk hbefore hnl hread hchar
  exact ⟨rest, hcells ▸ display_done_trace h hd⟩

/-- Settles O36: the cursor stays where `AtTest` and `AtWrite` say, from the start of the walk on. -/
theorem displayWritesVisibleCells : Obligations.DisplayWritesVisibleCells := by
  unfold Obligations.DisplayWritesVisibleCells
  intro s t h hd
  obtain ⟨hcells, hstop⟩ := AtTest.start.walk (term := s.cfg.term) (text := s.txt) (n := 32) (by omega)
  refine ⟨display_done_trace h hd, fun cell hcell => ⟨hcells cell hcell, fun hset => ?_⟩, ?_, ?_, ?_⟩
  · have := hcells cell hcell
    rw [setDdramByte_toNat hset]
    omega
  · have := textCells_length_add_newlines_le s.cfg.term s.txt 32 0 0x00
    exact (Nat.le_add_right ..).trans this
  · rw [display_done h hd]
    exact hstop.bound
  · rw [display_done h hd]
    refine (Nat.mod_le ..).trans hstop.1

/-- Refutes O60: "newline, A, newline, B" puts two characters into the cell 0x40. -/
theorem not_newlineTextHasFreshCells : ¬ Obligations.NewlineTextHasFreshCells := by
  unfold Obligations.NewlineTextHasFreshCells
  intro hfresh
  let s : State := { State.reset with
    width := .eight, sess := .ready, answers := List.replicate 5 0x00, txt := Memory.ofBytes [0x0A, 0x41, 0x0A, 0x42] }
  have hdone := displayCompletes s rfl (by decide) (by decide)
  have hcells := hfresh s _ _ rfl hdone rfl (display_done_trace hdone rfl)
  exact absurd hcells (by decide)

end Sys2Proof.Machine
end

section
/-! PROOFS. What is read off the events of a command that ended Done: the sum of its delays (spec/70_reset_and_hazards.md R163), and
what the reference observer and the reference mock of spec/95_test_vectors.md see of it. -/

namespace Sys2Proof.Machine

/-! ### The events of a command that ended Done -/

section
variable {s t : State} (hd : t.outcome = some .done)
include hd

theorem engine_done_events {k : Bool} {b : Byte} (h : exec (if k then .wrd b else .wri b) s = .next t) :
    s.width ≠ .unset ∧ waitReturns s.cfg s.answers = true ∧
      newEvents s t = xferEvents s.cfg s.width k b s.cpDir s.bpDir (waitReads s.answers) := by
  rw [exec_engine] at h
  obtain ⟨hw, hr, rfl⟩ := xfer_toOutcome_done h hd
  exact ⟨hw, hr, newEvents_of_trace (afterTransfer_trace k b s)⟩

theorem init_done_events {w : Nat} {width : BusWidth} (hw : initWidth w = some width)
    (h : exec (.init w) s = .next t) :
    waitsReturn s.cfg 5 s.answers = true ∧
      newEvents s t = initPulseEvents s w ++ transferEvents s.cfg width s.cpDir s.bpDir (initBytes s.cfg w) s.answers := by
  obtain ⟨hr, rfl⟩ := (exec_init_done_iff hw).mp ⟨h, hd⟩
  exact ⟨hr, newEvents_of_trace (afterInit_trace w width s)⟩

theorem display_done_events (h : exec .display s = .next t) :
    s.width ≠ .unset ∧ waitsReturn s.cfg (displayTransfers s.cfg s.txt).length s.answers = true ∧
      newEvents s t = transferEvents s.cfg s.width s.cpDir s.bpDir (displayTransfers s.cfg s.txt) s.answers := by
  obtain ⟨-, hw, hr, -⟩ := exec_display_done_iff.mp ⟨h, hd⟩
  have hlen : (displayTransfers s.cfg s.txt).length = 1 + 2 * (displayCells s.cfg.term s.txt).length := by
    simp [displayTransfers, cellTransfers, List.length_flatMap]
    omega
  exact ⟨hw, hlen ▸ hr, newEvents_of_trace (display_done_trace h hd)⟩

end

/-! ### Delays -/

@[simp] theorem totalDelay_append (l r : List Event) : totalDelay (l ++ r) = totalDelay l + totalDelay r := by
  induction l with
  | nil => simp [totalDelay]
  | cons e l ih => cases e <;> simp [totalDelay, ih, Nat.add_assoc]

/-- A poll has no delay of its own. -/
@[simp] theorem totalDelay_pollEvents (samples : List Byte) : totalDelay (pollEvents samples) = 0 := by
  induction samples with
  | nil => rfl
  | cons v vs ih => simpa [pollEvents, totalDelay] using ih

theorem totalDelay_xferEvents {width : BusWidth} (hw : width ≠ .unset) (cfg : Config) (kind : Bool) (b c d : Byte)
    (samples : List Byte) :
    totalDelay (xferEvents cfg width kind b c d samples) = if width = .eight then 1 else 3201 := by
  cases width with
  | unset => exact absurd rfl hw
  | eight => cases h : cfg.en8Release <;> simp [xferEvents, strobeEvents, bfwEvents, bfwEnterEvents, totalDelay, h]
  | four => simp [xferEvents, strobeEvents, bfwEvents, bfwEnterEvents, totalDelay]

theorem totalDelay_transferEvents {width : BusWidth} (hw : width ≠ .unset) (cfg : Config) (c d : Byte)
    (l : List (Bool × Byte)) (answers : List Byte) :
    totalDelay (transferEvents cfg width c d l answers) = l.length * if width = .eight then 1 else 3201 := by
  induction l generalizing answers with
  | nil => simp [transferEvents, totalDelay]
  | cons x l ih =>
    rw [transferEvents, totalDelay_append, totalDelay_xferEvents hw, ih, List.length_cons, Nat.succ_mul, Nat.add_comm]

/-! ### The observer -/

/-- The observer's picture after one event. -/
def Observer.see (o : Observer) : Event → Observer
  | .ctlW .rs b => { o with rs := b }
  | .ctlW .rw b => { o with rw := b }
  | .ctlW .en b => { o with en := b }
  | .busW v => { o with bus := v }
  | .dirW _ _ => o
  | .busR _ => o
  | .dly _ => o

/-- The observer's picture after events. -/
def Observer.after (o : Observer) (es : List Event) : Observer := es.foldl Observer.see o

@[simp] theorem Observer.after_nil (o : Observer) : o.after [] = o := rfl
@[simp] theorem Observer.after_cons (o : Observer) (e : Event) (es : List Event) :
    o.after (e :: es) = (o.see e).after es := rfl
@[simp] theorem Observer.after_append (o : Observer) (l r : List Event) : o.after (l ++ r) = (o.after l).after r :=
  List.foldl_append ..

/-- What is recorded of events in a row. -/
@[simp] theorem observe_append (edge : Edge) (o : Observer) (l r : List Event) :
    observe edge o (l ++ r) = observe edge o l ++ observe edge (o.after l) r := by
  induction l generalizing o with
  | nil => rfl
  | cons e l ih =>
    cases e with
    | ctlW line b => cases line <;> simp [observe, Observer.see, ih]
    | busW v | dirW p v | busR v | dly n => simp [observe, Observer.see, ih]

theorem pollEvents_cons (v : Byte) (vs : List Byte) :
    pollEvents (v :: vs) = [.ctlW .en true, .busR v, .ctlW .en false] ++ pollEvents vs := rfl

section
variable (rs : Bool) (bus : Byte) (samples : List Byte)

/-- Polls from EN = 0 leave the picture as it is. -/
@[simp] theorem Observer.after_pollEvents :
    Observer.after ⟨rs, true, false, bus⟩ (pollEvents samples) = ⟨rs, true, false, bus⟩ := by
  induction samples with
  | nil => rfl
  | cons v vs ih => simpa [pollEvents_cons, Observer.see] using ih

/-- Polls from EN = 0 are one read each, at either edge. -/
@[simp] theorem observe_pollEvents (edge : Edge) :
    observe edge ⟨rs, true, false, bus⟩ (pollEvents samples) = List.replicate samples.length .read := by
  induction samples with
  | nil => rfl
  | cons v vs ih =>
    cases edge <;>
      simp [pollEvents_cons, observe, Observer.recorded, Observer.strobe, ih, List.replicate_succ]

end

/-- The write strobe of a byte. -/
def writeStrobe (kind : Bool) (v : Byte) : Strobe := if kind then .data v else .instr v

/-- The write strobes of one transfer, at a rising edge. -/
def transferStrobes : BusWidth → Bool × Byte → List Strobe
  | .unset, _ => []
  | .eight, x => [writeStrobe x.1 x.2]
  | .four, x => [writeStrobe x.1 (x.2 &&& 0xF0), writeStrobe x.1 ((x.2 <<< 4) &&& 0xF0)]

section
variable (cfg : Config) (kind : Bool) (b c d : Byte) (samples : List Byte) {o : Observer} (hen : o.en = false)
include hen

/-- R63, at either edge. -/
theorem observe_xferEvents_four (edge : Edge) :
    observe edge o (xferEvents cfg .four kind b c d samples) =
        transferStrobes .four (kind, b) ++ List.replicate samples.length .read ∧
      (o.after (xferEvents cfg .four kind b c d samples)).en = false := by
  cases edge <;> cases kind <;>
    simp [xferEvents, strobeEvents, bfwEvents, bfwEnterEvents, observe, Observer.see, Observer.recorded,
      Observer.strobe, hen, transferStrobes, writeStrobe]

/-- R62 with EN8_RELEASE = ByEngine, at either edge. -/
theorem observe_xferEvents_byEngine (hrel : cfg.en8Release = .byEngine) (edge : Edge) :
    observe edge o (xferEvents cfg .eight kind b c d samples) =
        writeStrobe kind b :: List.replicate samples.length .read ∧
      (o.after (xferEvents cfg .eight kind b c d samples)).en = false := by
  cases edge <;> cases kind <;>
    simp [xferEvents, strobeEvents, bfwEvents, bfwEnterEvents, observe, Observer.see, Observer.recorded,
      Observer.strobe, hen, hrel, writeStrobe]

/-- R146 with EN8_RELEASE = ByMonitor: EN is still 1 when the polls begin, so the first poll has no rise, and the write no
fall. -/
theorem observe_xferEvents_byMonitor (hrel : cfg.en8Release = .byMonitor) (v : Byte) :
    observe .rise o (xferEvents cfg .eight kind b c d (v :: samples)) =
        writeStrobe kind b :: List.replicate samples.length .read ∧
      observe .fall o (xferEvents cfg .eight kind b c d (v :: samples)) =
        List.replicate (samples.length + 1) .read ∧
      (o.after (xferEvents cfg .eight kind b c d (v :: samples))).en = false := by
  cases kind <;>
    simp [xferEvents, strobeEvents, bfwEvents, bfwEnterEvents, observe, Observer.see, Observer.recorded,
      Observer.strobe, hen, pollEvents_cons, hrel, writeStrobe, List.replicate_succ]

end

/-! ### The write strobes of many transfers, at a rising edge -/

theorem waitReads_cons {c : Config} {as : List Byte} (h : waitReturns c as = true) :
    ∃ v vs, waitReads as = v :: vs ∧ vs.length = busyCount as := by
  have hlen := waitReads_length h
  cases hr : waitReads as with
  | nil => simp [hr] at hlen
  | cons v vs => exact ⟨v, vs, rfl, by simpa [hr] using hlen⟩

theorem filter_transferStrobes (width : BusWidth) (x : Bool × Byte) :
    (transferStrobes width x).filter (· != .read) = transferStrobes width x := by
  obtain ⟨kind, b⟩ := x
  cases width <;> cases kind <;> simp [transferStrobes, writeStrobe]

theorem filter_replicate_read (n : Nat) : (List.replicate n Strobe.read).filter (· != .read) = [] := by
  simp

/-- One transfer, reads left out. -/
theorem observe_rise_xferEvents {cfg : Config} {width : BusWidth} (hw : width ≠ .unset) {as : List Byte}
    (hr : waitReturns cfg as = true) (kind : Bool) (b c d : Byte) {o : Observer} (hen : o.en = false) :
    (observe .rise o (xferEvents cfg width kind b c d (waitReads as))).filter (· != .read) =
        transferStrobes width (kind, b) ∧
      (o.after (xferEvents cfg width kind b c d (waitReads as))).en = false := by
  suffices h : ∃ n, observe .rise o (xferEvents cfg width kind b c d (waitReads as)) =
      transferStrobes width (kind, b) ++ List.replicate n .read ∧
      (o.after (xferEvents cfg width kind b c d (waitReads as))).en = false by
    obtain ⟨n, hobs, hafter⟩ := h
    rw [hobs, List.filter_append, filter_transferStrobes, filter_replicate_read, List.append_nil]
    exact ⟨rfl, hafter⟩
  cases width with
  | unset => exact absurd rfl hw
  | four => exact ⟨_, observe_xferEvents_four cfg kind b c d (waitReads as) hen .rise⟩
  | eight =>
    cases hrel : cfg.en8Release with
    | byEngine => exact ⟨_, observe_xferEvents_byEngine cfg kind b c d (waitReads as) hen hrel .rise⟩
    | byMonitor =>
      obtain ⟨v, vs, hreads, -⟩ := waitReads_cons hr
      obtain ⟨hrise, -, hafter⟩ := observe_xferEvents_byMonitor cfg kind b c d vs hen hrel v
      rw [hreads]
      exact ⟨_, hrise, hafter⟩

/-- Transfers in a row, reads left out. -/
theorem observe_rise_transferEvents {cfg : Config} {width : BusWidth} (hw : width ≠ .unset) (c d : Byte)
    (l : List (Bool × Byte)) {as : List Byte} (hr : waitsReturn cfg l.length as = true) {o : Observer}
    (hen : o.en = false) :
    (observe .rise o (transferEvents cfg width c d l as)).filter (· != .read) =
      l.flatMap (transferStrobes width) := by
  induction l generalizing as o with
  | nil => rfl
  | cons x l ih =>
    obtain ⟨kind, b⟩ := x
    simp only [List.length_cons, waitsReturn, Bool.and_eq_true] at hr
    obtain ⟨hobs, hafter⟩ := observe_rise_xferEvents hw hr.1 kind b c d hen
    rw [transferEvents, observe_append, List.filter_append, hobs, ih hr.2 hafter, List.flatMap_cons]

/-- A raw pulse is one write strobe. -/
theorem observe_rawPulseEvents (v : Byte) (t : Nat) (c d : Byte) {o : Observer} (hen : o.en = false) :
    observe .rise o (rawPulseEvents v t c d) = [.instr v] := by
  simp [rawPulseEvents, observe, Observer.recorded, Observer.strobe, hen]

theorem Observer.after_rawPulseEvents (v : Byte) (t : Nat) (c d : Byte) (o : Observer) :
    o.after (rawPulseEvents v t c d) = ⟨false, false, false, v⟩ := rfl

/-- The raw pulses of INIT (R107). -/
theorem observe_initPulseEvents (s : State) (w : Nat) {o : Observer} (hen : o.en = false) :
    observe .rise o (initPulseEvents s w) =
        [.instr s.cfg.cmdFsReset, .instr s.cfg.cmdFsReset, .instr s.cfg.cmdFsReset] ++
          (if w = 8 then [] else [.instr s.cfg.cmdFsSwitch4]) ∧
      (o.after (initPulseEvents s w)).en = false := by
  by_cases h8 : w = 8 <;>
    simp [initPulseEvents, observe, Observer.see, observe_rawPulseEvents, Observer.after_rawPulseEvents, hen, h8]

/-- The write strobes of an INIT that ends Done. -/
theorem observe_init_done {w : Nat} {width : BusWidth} (hw : initWidth w = some width) {s t : State}
    (h : exec (.init w) s = .next t) (hd : t.outcome = some .done) :
    (observe .rise Observer.start (newEvents s t)).filter (· != .read) =
      [.instr s.cfg.cmdFsReset, .instr s.cfg.cmdFsReset, .instr s.cfg.cmdFsReset] ++
        (if w = 8 then [] else [.instr s.cfg.cmdFsSwitch4]) ++
        (initBytes s.cfg w).flatMap (transferStrobes width) := by
  obtain ⟨hr, hev⟩ := init_done_events hd hw h
  obtain ⟨hpulses, hafter⟩ := observe_initPulseEvents s w (o := Observer.start) rfl
  rw [hev, observe_append, hpulses, List.filter_append,
    observe_rise_transferEvents (initWidth_ne_unset hw) _ _ _ hr hafter]
  congr 1
  split <;> rfl

/-- The nibbles of instruction transfers, joined. -/
theorem joinStrobes_instr (bs : List Byte) :
    joinStrobes ((bs.map fun b => (false, b)).flatMap (transferStrobes .four)) = bs.map .instr := by
  induction bs with
  | nil => rfl
  | cons b bs ih =>
    rw [List.map_cons, List.map_cons, List.flatMap_cons, ← ih]
    exact congrArg (fun v => Strobe.instr v :: _) (joinNibbles_nibbles b)

/-! ### The mock -/

/-- The mock ignores reads. -/
theorem takeAll_filter_read (d : MockDisplay) (l : List Strobe) :
    d.takeAll (l.filter (· != .read)) = d.takeAll l := by
  unfold MockDisplay.takeAll
  induction l generalizing d with
  | nil => rfl
  | cons x l ih => cases x <;> simp [MockDisplay.take, ih]

/-- An instruction that carries an address, with the default CMD_SET_DDRAM. -/
theorem take_setDdramByte {c : Config} (h : c.cmdSetDdram = 0x80) (d : MockDisplay) (a : DdramAddr) :
    d.take (.instr (setDdramByte c a)) = { d with addr := a } := by
  have hbyte : ∀ a : DdramAddr, (0x80 : Byte) ||| a.zeroExtend 8 ≠ 0x01 ∧
      ((0x80 : Byte) ||| a.zeroExtend 8).getLsbD 7 = true ∧
      ((0x80 : Byte) ||| a.zeroExtend 8).extractLsb' 0 7 = a := by decide
  obtain ⟨hclear, hbit, haddr⟩ := hbyte a
  rw [MockDisplay.take, setDdramByte, h, if_neg hclear, if_pos hbit, haddr]

/-- The transfers of cells store them, the later over the earlier. -/
theorem takeAll_cellTransfers {c : Config} (h : c.cmdSetDdram = 0x80) (cells : List (DdramAddr × Byte))
    (d : MockDisplay) :
    (d.takeAll ((cellTransfers c cells).flatMap (transferStrobes .eight))).cells = cells.reverse ++ d.cells := by
  unfold MockDisplay.takeAll
  induction cells generalizing d with
  | nil => rfl
  | cons cell cells ih =>
    have hcons : (cellTransfers c (cell :: cells)).flatMap (transferStrobes .eight) =
        .instr (setDdramByte c cell.1) :: .data cell.2 ::
          (cellTransfers c cells).flatMap (transferStrobes .eight) := rfl
    rw [hcons, List.foldl_cons, List.foldl_cons, ih, take_setDdramByte h]
    simp [MockDisplay.take]

/-! ### A word of the engine, given to an idle block -/

theorem step_engine_word {s : State} {rest : List HostAct} (k : Bool) (b : Byte) (hseq : s.seq = .idle)
    (hhost : s.host = .command (encode (if k then .wrd b else .wri b)) none :: rest) (hw : s.width ≠ .unset)
    (hr : waitReturns s.cfg s.answers = true) :
    step s = .next (endCommand .done (afterTransfer k b { s with host := rest })) := by
  have hwf : (if k then Instr.wrd b else .wri b).wf = true := by cases k <;> rfl
  rw [step_command hseq hhost (decodeInvertsEncode _ hwf), exec_engine]
  exact congrArg Flow.toOutcome (xfer_returns (s := { s with host := rest }) hw hr)

/-! ### The obligations -/

/-- Settles O52: each event list has its delays, however many polls it has. -/
theorem delayPerCommand : Obligations.DelayPerCommand := by
  unfold Obligations.DelayPerCommand
  refine ⟨fun i b s t hi h hd => ?_, fun s t h hd => ?_, fun s t h hd => ?_, fun s t h hd => ?_⟩
  · obtain ⟨callers, kind, v, hx⟩ := exec_one_transfer hi h
    obtain ⟨hw, -, rfl⟩ := xfer_toOutcome_done hx hd
    have hev : newEvents s (endCommand .done (afterTransfer kind v s)) = _ :=
      newEvents_of_trace (afterTransfer_trace kind v s)
    rw [hev, totalDelay_xferEvents hw]
  · obtain ⟨-, hev⟩ := init_done_events hd (w := 8) rfl h
    rw [hev, totalDelay_append, totalDelay_transferEvents (by decide)]
    simp [initPulseEvents, rawPulseEvents, totalDelay, initBytes]
  · obtain ⟨-, hev⟩ := init_done_events hd (w := 4) rfl h
    rw [hev, totalDelay_append, totalDelay_transferEvents (by decide)]
    simp [initPulseEvents, rawPulseEvents, totalDelay, initBytes]
  · obtain ⟨hw, -, hev⟩ := display_done_events hd h
    rw [hev, totalDelay_transferEvents hw]
    congr 1
    simp [displayTransfers, cellTransfers, List.length_flatMap]
    omega

/-- Settles O53: two nibbles on the bus and in the strobes, then the polls. -/
theorem fourBitTransferSeenAsItsByte : Obligations.FourBitTransferSeenAsItsByte := by
  unfold Obligations.FourBitTransferSeenAsItsByte
  refine ⟨joinNibbles_nibbles, fun edge b s t hw => ?_⟩
  have hseen (k : Bool) (h : exec (if k then .wrd b else .wri b) s = .next t) (hd : t.outcome = some .done) :
      busWrites (newEvents s t) = [b &&& 0xF0, (b <<< 4) &&& 0xF0] ∧
        observe edge Observer.start (newEvents s t) =
          transferStrobes .four (k, b) ++ List.replicate (busyCount s.answers + 1) .read := by
    obtain ⟨-, hr, hev⟩ := engine_done_events hd h
    rw [hev, hw, ← waitReads_length hr]
    exact ⟨busWrites_xferEvents_four .., (observe_xferEvents_four s.cfg k b _ _ _ rfl edge).1⟩
  exact ⟨fun h hd => ⟨(hseen false h hd).1, fun _ => (hseen false h hd).2⟩,
    fun h hd => ⟨(hseen true h hd).1, fun _ => (hseen true h hd).2⟩⟩

/-- Settles O54: the strobes of one eight-bit transfer, by the edge and by who lowers EN. -/
theorem eightBitTransferSeenByEdge : Obligations.EightBitTransferSeenByEdge := by
  unfold Obligations.EightBitTransferSeenByEdge
  intro k b s t hw h hd
  obtain ⟨-, hr, hev⟩ := engine_done_events hd h
  obtain ⟨v, vs, hreads, hlen⟩ := waitReads_cons hr
  rw [hev, hw, ← hlen, hreads]
  refine ⟨?_, fun _ hrel => ?_, fun _ hrel edge => ?_⟩
  · cases hrel : s.cfg.en8Release <;>
      simp [xferEvents, strobeEvents, bfwEvents, bfwEnterEvents, busWrites, hrel]
  · obtain ⟨hrise, hfall, -⟩ := observe_xferEvents_byMonitor s.cfg k b s.cpDir s.bpDir vs (o := .start) rfl hrel v
    exact ⟨hrise, hfall⟩
  · exact (observe_xferEvents_byEngine s.cfg k b _ _ (v :: vs) rfl hrel edge).1

/-- Settles O55: the strobes of the raw pulses, then of the five transfers. -/
theorem initSeenInOrder : Obligations.InitSeenInOrder := by
  unfold Obligations.InitSeenInOrder
  refine fun s t _ hd => ⟨fun h => observe_init_done (w := 8) rfl h hd, fun h => ?_⟩
  rw [observe_init_done (w := 4) rfl h hd]
  exact ⟨rfl, joinStrobes_instr
    [s.cfg.cmdFs4, s.cfg.cmdDisplayOff, s.cfg.cmdClear, s.cfg.cmdEntryMode, s.cfg.cmdDisplayOn]⟩

/-- Settles O56: the clear empties the mock, and the transfers of the cells fill it. -/
theorem displayFillsTheMock : Obligations.DisplayFillsTheMock := by
  unfold Obligations.DisplayFillsTheMock
  intro d s t hw _ hclear hset h hd
  obtain ⟨hset', hr, hev⟩ := display_done_events hd h
  rw [← takeAll_filter_read, hev, observe_rise_transferEvents hset' _ _ _ hr rfl, hw, displayTransfers,
    List.flatMap_cons, hclear]
  have hcells := takeAll_cellTransfers hset (displayCells s.cfg.term s.txt) { cells := [], addr := 0 }
  rwa [List.append_nil] at hcells

/-- Refutes O59: with one answer, not busy, the observer sees one read and nothing else. -/
theorem not_eightBitWriteSeenAtFall : ¬ Obligations.EightBitWriteSeenAtFall := by
  unfold Obligations.EightBitWriteSeenAtFall
  intro hseen
  let s : State := { State.reset with width := .eight, answers := [0x00] }
  have hdone := (engineCommandsComplete 0x41 s (by decide) (by decide)).2
  have hdata := hseen 0x41 s _ rfl rfl (by decide) hdone rfl
  obtain ⟨-, hfall, -⟩ := eightBitTransferSeenByEdge true 0x41 s _ rfl hdone rfl
  rw [(hfall (by decide) rfl).2] at hdata
  exact absurd hdata (by decide)

/-- Settles O57: two steps, each a transfer that returns. -/
theorem writeCharacterAtAddress : Obligations.WriteCharacterAtAddress := by
  unfold Obligations.WriteCharacterAtAddress
  intro s a c hseq hw hhost hr
  simp only [waitsReturn, Bool.and_eq_true, and_true] at hr
  obtain ⟨hfirst, hsecond⟩ := hr
  have hwri := step_engine_word (s := { s with host := assemble s.cfg (.wca a c) }) false (setDdramByte s.cfg a) hseq rfl
    hw hfirst
  have hwrd := step_engine_word (s := endCommand .done (afterTransfer false (setDdramByte s.cfg a)
    { s with host := [.command (encode (.wrd c)) none] })) true c rfl rfl hw hsecond
  simp only [Host.Core.run, Sys2Proof.core, hwri, hwrd]
  rw [← hhost]
  rfl

end Sys2Proof.Machine
end

section
/-! PROOFS. The frame of one step of the sequencer, label by label, and of one step of the machine: what changes no register of the
session, no parameter, no foreign bit, and takes no event back (spec/10_state.md R22 to R24, R31). -/

namespace Sys2Proof.Machine

/-! ### The frame of one step of the sequencer -/

/-- An operation inside a step, which leaves SEQ, the session and ERR_DNR alone as well. -/
structure Quiet (s u : State) : Prop extends Untouched s u where
  errDnr : u.errDnr = s.errDnr
  seq : u.seq = s.seq
  width : u.width = s.width
  sess : u.sess = s.sess

/-- What a step of the sequencer from `s` can do to the registers outside the procedures: the fault sets ERR_DNR, three labels of
INIT write WIDTH and SESS, and the return of a command empties UPC. -/
structure StepFrame (s t : State) : Prop extends Untouched s t where
  errDnr : t.errDnr = s.errDnr ∨ (s.cfg.pollCap ≠ none ∧ t.errDnr = true)
  seq : (t.seq = s.seq ∧ t.upc ≠ []) ∨ (t.seq = .idle ∧ t.upc = [])
  width : t.width = s.width ∨ ∃ w below, s.upc = .init w .i9 :: below
  sess : t.sess = s.sess ∨ ∃ w below,
    (s.upc = .init w .i2 :: below ∧ t.sess = .initializing) ∨ (s.upc = .init w .i15 :: below ∧ t.sess = .ready)

/-- Where this outcome is a next state, it has the frame of a step from `s`. -/
def Framed (s : State) : Host.Outcome State Fault Refusal → Prop
  | .next t => StepFrame s t
  | .fault _ => True
  | .refused _ => True

namespace Quiet
variable {s : State}

/-- The registers of the procedures, and no others, are written. -/
theorem scratch (bpOut cpDir bpDir : Byte) (busyf : Bool) (dreg : Byte) (kind : Bool) (sv1Cp sv1Bp sv2Cp sv2Bp : Byte)
    (npoll : Nat) (cur : DdramAddr) (idx : TextIndex) (chr : Byte) (answers : List Byte) (reads : Nat) :
    Quiet s { s with
      bpOut := bpOut, cpDir := cpDir, bpDir := bpDir, busyf := busyf, dreg := dreg, kind := kind, sv1Cp := sv1Cp,
      sv1Bp := sv1Bp, sv2Cp := sv2Cp, sv2Bp := sv2Bp, npoll := npoll, cur := cur, idx := idx, chr := chr,
      answers := answers, reads := reads } :=
  ⟨.of_eq rfl rfl rfl rfl rfl, rfl, rfl, rfl, rfl⟩

theorem emit {u : State} (h : Quiet s u) (e : Event) : Quiet s (emit e u) :=
  ⟨⟨h.cfg, h.txt, h.host, h.foreign, h.trace.trans (List.prefix_append ..)⟩, h.errDnr, h.seq, h.width, h.sess⟩

theorem refl (s : State) : Quiet s s := scratch ..

theorem setControl (l : Line) (b : Bool) : Quiet s (setControl l b s) := by
  refine ⟨⟨rfl, rfl, rfl, fun k hrs hrw hen => ?_, List.prefix_append ..⟩, rfl, rfl, rfl, rfl⟩
  have hk : k ≠ linePos s.cfg l := by cases l <;> assumption
  simp [hk]

theorem loadDirection (p : Port) (v : Byte) : Quiet s (loadDirection p v s) := by
  cases p <;> exact (scratch ..).emit _

theorem setDirection (p : Port) (mask : Byte) (out : Bool) : Quiet s (setDirection p mask out s) := loadDirection ..

theorem driveBus (v : Byte) : Quiet s (driveBus v s) := (scratch ..).emit _

theorem delay (n : Nat) : Quiet s (delay n s) := (refl s).emit _

theorem sampleBusy : Quiet s (sampleBusy s) := by
  obtain ⟨v, htrace⟩ := sampleBusy_trace s
  exact ⟨⟨by simp, by simp, by simp, fun k _ _ _ => by simp, htrace ▸ List.prefix_append ..⟩, by simp, by simp, by simp,
    by simp⟩

theorem forceLine2 : Quiet s (forceLine2 s) := by
  unfold Machine.forceLine2
  split
  · exact scratch ..
  · exact refl s

end Quiet

namespace Framed
variable {s u : State} {below : List Frame}

theorem ite {c : Prop} [Decidable c] {a b : Host.Outcome State Fault Refusal}
    (ha : c → Framed s a) (hb : ¬c → Framed s b) : Framed s (if c then a else b) := by
  split
  · exact ha ‹_›
  · exact hb ‹_›

theorem advance {f : Frame} (h : Quiet s u) : Framed s (advance f below u) :=
  ⟨⟨h.cfg, h.txt, h.host, h.foreign, h.trace⟩, .inl h.errDnr, .inl ⟨h.seq, by simp⟩, .inl h.width, .inl h.sess⟩

theorem callFrom {callee caller : Frame} : Framed s (callFrom callee caller below s) :=
  ⟨.of_eq rfl rfl rfl rfl rfl, .inl rfl, .inl ⟨rfl, by simp⟩, .inl rfl, .inl rfl⟩

theorem returnWith {o : CmdOutcome} : Framed s (returnWith o below s) := by
  cases below with
  | nil => exact ⟨.of_eq rfl rfl rfl rfl rfl, .inl rfl, .inr ⟨rfl, rfl⟩, .inl rfl, .inl rfl⟩
  | cons f fs => exact ⟨.of_eq rfl rfl rfl rfl rfl, .inl rfl, .inl ⟨rfl, by simp⟩, .inl rfl, .inl rfl⟩

theorem driveStep {v : Byte} {f : Frame} : Framed s (driveStep v f below s) :=
  ite (fun _ => advance (.driveBus v)) (fun _ => trivial)

theorem raise (hcap : capReached s.cfg s.npoll = true) : Framed s (.next (raiseDeviceNotResponding s)) := by
  have hsome : s.cfg.pollCap ≠ none := fun h => by simp [capReached, h] at hcap
  rw [raiseDeviceNotResponding_eq]
  exact ⟨⟨rfl, rfl, rfl, fun _ _ _ _ => rfl, List.prefix_append ..⟩, .inr ⟨hsome, rfl⟩, .inr ⟨rfl, rfl⟩, .inl rfl,
    .inl rfl⟩

variable (below) (s)

theorem wriStep (b : Byte) : ∀ l, Framed s (wriStep b l below s)
  | .call => callFrom
  | .ret => returnWith

theorem wrdStep (b : Byte) : ∀ l, Framed s (wrdStep b l below s)
  | .call => callFrom
  | .ret => returnWith

theorem xferStep (k : Bool) (b : Byte) : ∀ l, Framed s (xferStep k b l below s)
  | .x1 | .x2 | .x3 => advance (.scratch ..)
  | .x4 => ite (fun _ => trivial) (fun _ => advance (.refl s))
  | .x5 | .x6 => advance (.setDirection ..)
  | .x7 => ite (fun _ => advance (.refl s)) (fun _ => advance (.refl s))
  | .x8 | .x9 => advance (.loadDirection ..)
  | .e1 | .e3 | .e4 | .e5 | .f1 | .f2 => advance (.setControl ..)
  | .e2 => driveStep
  | .e6 => by
    simp only [Machine.xferStep]
    split
    · exact advance (.refl s)
    · exact advance (.setControl ..)
  | .e7 | .f3 | .f4 | .f5 => callFrom
  | .ret => returnWith

theorem nibpStep (v : Byte) : ∀ l, Framed s (nibpStep v l below s)
  | .n1 => driveStep
  | .n2 | .n4 => advance (.setControl ..)
  | .n3 | .n5 => advance (.delay _)
  | .ret => returnWith

theorem bfwStep : ∀ l, Framed s (bfwStep l below s)
  | .b1 | .b2 | .b6 | .b10 => advance (.scratch ..)
  | .b3 => advance (.setDirection ..)
  | .b4 | .b5 | .b7 | .b9 => advance (.setControl ..)
  | .b8 => ite (fun _ => advance .sampleBusy) (fun _ => trivial)
  | .b11 => ite (fun _ => ite raise (fun _ => advance (.refl s))) (fun _ => advance (.refl s))
  | .b12 => advance (.delay _)
  | .b13 | .b14 => advance (.loadDirection ..)
  | .ret => returnWith

theorem rawpStep (v : Byte) (n : Nat) : ∀ l, Framed s (rawpStep v n l below s)
  | .p1 | .p2 => advance (.scratch ..)
  | .p3 | .p4 => advance (.setDirection ..)
  | .p5 | .p7 | .p8 | .p9 | .p10 => advance (.setControl ..)
  | .p6 => driveStep
  | .p11 => advance (.delay _)
  | .p12 | .p13 => advance (.loadDirection ..)
  | .ret => returnWith

theorem initStep (w : Nat) : ∀ l, s.upc = .init w l :: below → Framed s (initStep w l below s)
  | .i1, _ => ite (fun _ => returnWith) (fun _ => advance (.refl s))
  | .i2, h => ⟨.of_eq rfl rfl rfl rfl rfl, .inl rfl, .inl ⟨rfl, by simp⟩, .inl rfl,
      .inr ⟨w, below, .inl ⟨h, rfl⟩⟩⟩
  | .i3, _ => advance (.delay _)
  | .i7, _ => ite (fun _ => advance (.refl s)) (fun _ => advance (.refl s))
  | .i9, h => ⟨.of_eq rfl rfl rfl rfl rfl, .inl rfl, .inl ⟨rfl, by simp⟩,
      .inr ⟨w, below, h⟩, .inl rfl⟩
  | .i15, h => ⟨.of_eq rfl rfl rfl rfl rfl, .inl rfl, .inl ⟨rfl, by simp⟩, .inl rfl,
      .inr ⟨w, below, .inr ⟨h, rfl⟩⟩⟩
  | .i4, _ | .i5, _ | .i6, _ | .i8, _ | .i10, _ | .i11, _ | .i12, _ | .i13, _ | .i14, _ => callFrom
  | .ret, _ => returnWith

theorem clearStep : ∀ l, Framed s (clearStep l below s)
  | .c1 => ite (fun _ => advance (.refl s)) (fun _ => trivial)
  | .c2 => callFrom
  | .ret => returnWith

theorem displayStep : ∀ l, Framed s (displayStep l below s)
  | .s1 => ite (fun _ => advance (.refl s)) (fun _ => trivial)
  | .s3 | .s4 | .s12 | .s13 => advance (.scratch ..)
  | .s5 | .s7 => ite (fun _ => returnWith) (fun _ => advance (.refl s))
  | .s6 => ite (fun _ => advance (.scratch ..)) (fun _ => trivial)
  | .s8 => advance .forceLine2
  | .s9 => ite (fun _ => advance (.scratch ..)) (fun _ => advance (.refl s))
  | .s14 => advance (.refl s)
  | .s2 | .s10 | .s11 => callFrom

end Framed

/-- The frame of one step of the sequencer, whatever the label. -/
theorem microStep_frame {s t : State} (h : microStep s = .next t) : StepFrame s t := by
  suffices hframed : Framed s (microStep s) by rwa [h] at hframed
  unfold microStep
  split
  · trivial
  · exact .wriStep ..
  · exact .wrdStep ..
  · exact .initStep _ _ _ _ ‹_›
  · exact .clearStep ..
  · exact .displayStep ..
  · exact .xferStep ..
  · exact .nibpStep ..
  · exact .rawpStep ..
  · exact .bfwStep ..

/-! ### The frame of a command run whole -/

/-- ERR_DNR is not cleared by a command. -/
theorem exec_errDnr {i : Instr} {s t : State} (h : exec i s = .next t) (he : s.errDnr = true) : t.errDnr = true := by
  have hhalt {u : State} (ht : HaltsFrom u t) (hu : u.errDnr = true) : t.errDnr = true := by
    obtain ⟨-, -, herr⟩ | ⟨-, -, herr, -⟩ := ht.errDnr_and_directions
    · exact herr.trans hu
    · exact herr
  cases exec_cases h with
  | noOp hi hw => exact he
  | done hi hu => exact hu.reached.errDnr.trans he
  | halted hi hu ht => exact hhalt ht (hu.errDnr.trans he)
  | initDone hi hw hu => exact hu.reached.errDnr.trans (by simpa using he)
  | initHalted hi hw hu ht => exact hhalt ht (hu.errDnr.trans (by simpa using he))

/-- Only INIT 4 and INIT 8 write WIDTH or SESS. -/
theorem exec_session {i : Instr} {s t : State} (h : exec i s = .next t) :
    (t.width = s.width ∧ t.sess = s.sess) ∨ ∃ w, i = .init w ∧ (w = 4 ∨ w = 8) := by
  have hinit {w : Nat} {width : BusWidth} (hi : i = .init w) (hw : initWidth w = some width) :
      ∃ w, i = .init w ∧ (w = 4 ∨ w = 8) := by
    obtain ⟨hw, -⟩ | ⟨hw, -⟩ := initWidth_eq_some.mp hw
    · exact ⟨w, hi, .inr hw⟩
    · exact ⟨w, hi, .inl hw⟩
  cases exec_cases h with
  | noOp hi hw => exact .inl ⟨rfl, rfl⟩
  | done hi hu => exact .inl ⟨hu.reached.width, hu.reached.sess⟩
  | halted hi hu ht =>
    obtain ⟨hwidth, hsess, -⟩ := ht.registers
    exact .inl ⟨hwidth.trans hu.width, hsess.trans hu.sess⟩
  | initDone hi hw hu => exact .inr (hinit hi hw)
  | initHalted hi hw hu ht => exact .inr (hinit hi hw)

/-! ### The obligations -/

/-- Settles O48: by the cases of a step. -/
theorem onlyResetClearsErrDnr : Obligations.OnlyResetClearsErrDnr := by
  unfold Obligations.OnlyResetClearsErrDnr
  intro s t h he hreset
  cases step_cases h with
  | reset hhost => exact absurd (by rw [hhost]; rfl) hreset
  | running hseq _ ho =>
    obtain herr | ⟨-, herr⟩ := (microStep_frame ho).errDnr
    · exact herr.trans he
    · exact herr
  | waits => exact he
  | portWrite => simpa using he
  | command hseq hhost hi ho => exact exec_errDnr ho (by simpa using he)

/-- Settles O49: by the cases of a step. -/
theorem stepOnlyExtendsTrace : Obligations.StepOnlyExtendsTrace := by
  unfold Obligations.StepOnlyExtendsTrace
  intro s t h
  cases step_cases h with
  | reset => exact ⟨List.prefix_refl _, rfl⟩
  | running hseq _ ho => exact ⟨(microStep_frame ho).trace, (microStep_frame ho).cfg⟩
  | waits => exact ⟨List.prefix_refl _, rfl⟩
  | portWrite => simp
  | command hseq hhost hi ho => simpa using And.intro (exec_untouched ho).trace (exec_untouched ho).cfg

/-- Settles O50: by the cases of a step. -/
theorem stepKeepsForeignBits : Obligations.StepKeepsForeignBits := by
  unfold Obligations.StepKeepsForeignBits
  intro s t h hother
  cases step_cases h with
  | reset => exact fun _ _ _ _ => rfl
  | running hseq _ ho => exact (microStep_frame ho).foreign
  | waits => exact fun _ _ _ _ => rfl
  | @portWrite r v rest hseq hhost =>
    cases r with
    | cpOut => exact absurd ⟨hseq, v, by rw [hhost]; rfl⟩ hother
    | cpDir | bpOut | bpDir => exact fun _ _ _ _ => rfl
  | command hseq hhost hi ho => simpa [sameForeignBits] using (exec_untouched ho).foreign

/-- Settles O47: by the cases of a step. -/
theorem onlyInitWritesWidth : Obligations.OnlyInitWritesWidth := by
  unfold Obligations.OnlyInitWritesWidth
  intro s t h
  cases step_cases h with
  | reset hhost => exact ⟨fun _ => .inl (by rw [hhost]; rfl), fun _ => .inl ⟨by rw [hhost]; rfl, rfl⟩⟩
  | running hseq _ ho =>
    have hframe := microStep_frame ho
    exact ⟨fun hne => .inr (.inl ⟨hseq, hframe.width.resolve_left hne⟩),
      fun hne => .inr (.inl ⟨hseq, hframe.sess.resolve_left hne⟩)⟩
  | waits => exact ⟨fun hne => absurd rfl hne, fun hne => absurd rfl hne⟩
  | portWrite => simp
  | @command w text rest i o hseq hhost hi ho =>
    obtain ⟨hwidth, hsess⟩ | ⟨n, rfl, hn⟩ := exec_session ho
    · exact ⟨fun hne => absurd (by simpa using hwidth) hne, fun hne => absurd (by simpa using hsess) hne⟩
    · have hcmd : ∃ word text n, s.host.head? = some (.command word text) ∧ decode word = .ok (.init n) ∧
          (n = 4 ∨ n = 8) := ⟨w, text, n, by rw [hhost]; rfl, hi, hn⟩
      exact ⟨fun _ => .inr (.inr ⟨hseq, hcmd⟩), fun _ => .inr (.inr ⟨hseq, hcmd⟩)⟩

end Sys2Proof.Machine
end

section
/-! PROOFS. The Busy-Flag Monitor label by label (spec/41_busy_flag_monitor.md R85 to R91), with the number of its steps. -/

namespace Sys2Proof.Machine

/-! ### Runs of the sequencer -/

theorem microRun_succ {s t : State} {n : Nat} (hseq : s.seq = .running) (h : microStep s = .next t) :
    microRun (n + 1) s = microRun n t := by
  simp [microRun, hseq, h]

theorem microRun_idle {s : State} (n : Nat) (h : s.seq = .idle) : microRun n s = .next s := by
  cases n <;> simp [microRun, h]

/-- A run goes on where its first part stopped. -/
theorem microRun_add {s t : State} {m : Nat} (n : Nat) (h : microRun m s = .next t) :
    microRun (m + n) s = microRun n t := by
  induction m generalizing s with
  | zero =>
    cases h
    rw [Nat.zero_add]
  | succ m ih =>
    rw [Nat.succ_add]
    cases hseq : s.seq with
    | idle =>
      rw [microRun_idle _ hseq] at h ⊢
      cases h
      rw [microRun_idle _ hseq]
    | running =>
      simp only [microRun, hseq] at h ⊢
      cases hs : microStep s with
      | next u =>
        rw [hs] at h
        exact ih h
      | fault r => rw [hs] at h; cases h
      | refused r => rw [hs] at h; cases h

/-- A block that is still running after `n` steps of the sequencer, with no reset to take, has made `n` steps of the machine. -/
theorem core_run_of_microRun {s t : State} {n : Nat} (hreset : s.host.head? ≠ some .reset)
    (h : microRun n s = .next t) (ht : t.seq = .running) : Host.Core.run Sys2Proof.core n s = .next t := by
  induction n generalizing s with
  | zero => exact h
  | succ n ih =>
    cases hseq : s.seq with
    | idle =>
      rw [microRun_idle _ hseq] at h
      cases h
      rw [hseq] at ht
      cases ht
    | running =>
      simp only [microRun, hseq] at h
      cases hs : microStep s with
      | fault r => rw [hs] at h; cases h
      | refused r => rw [hs] at h; cases h
      | next u =>
        rw [hs] at h
        have hrest := ih (by rwa [(microStep_frame hs).host]) h
        have hstep : step s = .next u := (step_running hseq hreset).trans hs
        simpa only [Host.Core.run, Sys2Proof.core, hstep] using hrest

/-- The block running at these frames, with this record of the last outcome, and as in `s` otherwise. -/
def State.runningAt (o : Option CmdOutcome) (frames : List Frame) (s : State) : State :=
  { s with seq := .running, upc := frames, outcome := o }

theorem State.runningAt_self {s : State} (hseq : s.seq = .running) : s.runningAt s.outcome s.upc = s := by
  rw [State.runningAt, ← hseq]

theorem sampleBusy_runningAt (o : Option CmdOutcome) (frames : List Frame) (s : State) :
    sampleBusy (s.runningAt o frames) = (sampleBusy s).runningAt o frames := by
  cases h : s.answers with
  | nil =>
    rw [sampleBusy_of_none h, sampleBusy_of_none (s := s.runningAt o frames) h]
    rfl
  | cons v rest =>
    rw [sampleBusy_of_answer h, sampleBusy_of_answer (s := s.runningAt o frames) h]
    rfl

/-! ### The steps of BFW -/

section
variable (o : Option CmdOutcome) (frames : List Frame) (s : State)

/-- Steps B1 to B6. -/
theorem microRun_bfwEnter :
    microRun 6 (s.runningAt o (.bfw .b1 :: frames)) = .next ((bfwEnter s).runningAt o (.bfw .b7 :: frames)) := rfl

/-- Steps B7 to B11, one poll: it loops, faults, or leaves the loop. -/
theorem microRun_poll (h : readBusValid s = true) :
    microRun 5 (s.runningAt o (.bfw .b7 :: frames)) = .next (
      if (pollOnce s).busyf then
        if capReached s.cfg (s.npoll + 1) then raiseDeviceNotResponding (pollOnce s)
        else (pollOnce s).runningAt o (.bfw .b7 :: frames)
      else (pollOnce s).runningAt o (.bfw .b12 :: frames)) := by
  have hsample : microStep ((setControl .en true s).runningAt o (.bfw .b8 :: frames)) =
      .next ((sampleBusy (setControl .en true s)).runningAt o (.bfw .b9 :: frames)) := by
    have hstep : microStep ((setControl .en true s).runningAt o (.bfw .b8 :: frames)) =
        advance (.bfw .b9) frames (sampleBusy ((setControl .en true s).runningAt o (.bfw .b8 :: frames))) := if_pos h
    rw [hstep, sampleBusy_runningAt]
    rfl
  have htest : microStep ((pollOnce s).runningAt o (.bfw .b11 :: frames)) = .next (
      if (pollOnce s).busyf then
        if capReached s.cfg (s.npoll + 1) then raiseDeviceNotResponding (pollOnce s)
        else (pollOnce s).runningAt o (.bfw .b7 :: frames)
      else (pollOnce s).runningAt o (.bfw .b12 :: frames)) := by
    rw [← pollOnce_cfg s, ← pollOnce_npoll s]
    change bfwStep .b11 frames ((pollOnce s).runningAt o (.bfw .b11 :: frames)) = _
    simp only [bfwStep, State.runningAt, advance, raiseDeviceNotResponding_eq]
    split_ifs <;> rfl
  exact (microRun_succ rfl rfl).trans ((microRun_succ rfl hsample).trans
    ((microRun_succ rfl rfl).trans ((microRun_succ rfl rfl).trans (microRun_succ rfl htest))))

/-- Steps B12 to B14 and the return. -/
theorem microRun_bfwLeave (caller : Frame) (below : List Frame) :
    microRun 4 (s.runningAt o (.bfw .b12 :: caller :: below)) =
      .next ((bfwLeave s).runningAt o (caller :: below)) := rfl

end

/-! ### The poll loop, by the samples it takes -/

/-- The samples of a wait that returns: the busy ones, then one that is not. -/
theorem waitReads_eq_append {as : List Byte} (h : as.any (fun v => !busyFlag v) = true) :
    ∃ v, busyFlag v = false ∧ waitReads as = as.take (busyCount as) ++ [v] := by
  induction as with
  | nil => simp at h
  | cons w as ih =>
    cases hw : busyFlag w with
    | false => exact ⟨w, hw, by simp [waitReads, busyCount_cons_ready hw]⟩
    | true =>
      obtain ⟨v, hv, hreads⟩ := ih (by simpa [hw] using h)
      refine ⟨v, hv, ?_⟩
      simp only [waitReads, busyCount_cons_busy hw, List.take_succ_cons, List.cons_append] at hreads ⊢
      rw [hreads]

/-- The state after the polls of a wait that returns. -/
theorem polled_waitReads {s : State} (h : waitReturns s.cfg s.answers = true) :
    polled (waitReads s.answers) s = { s with
      cpOut := setBit s.cpOut s.cfg.pins.enBit false
      busyf := false
      npoll := s.npoll + (busyCount s.answers + 1)
      answers := waitRest s.answers
      reads := s.reads + (busyCount s.answers + 1)
      trace := s.trace ++ pollEvents (waitReads s.answers) } := by
  obtain ⟨v, hv, hreads⟩ := waitReads_eq_append (Bool.and_eq_true_iff.mp h).2
  have hlast : (waitReads s.answers).getLast? = some v := by simp [hreads]
  have hne : (waitReads s.answers).isEmpty = false := by simp [hreads]
  simp [polled, waitReads_length h, hlast, hne, hv, waitRest]

theorem polled_append {samples : List Byte} {v : Byte} {rest : List Byte} {s : State}
    (h : s.answers = samples ++ v :: rest) : polled (samples ++ [v]) s = pollOnce (polled samples s) := by
  induction samples generalizing s with
  | nil =>
    rw [List.nil_append, polled_cons h, polled_nil, polled_nil]
  | cons w ws ih =>
    have hw : s.answers = w :: (ws ++ v :: rest) := h
    rw [List.cons_append, polled_cons hw, polled_cons hw, ih (by rw [pollOnce_eq hw])]

@[simp] theorem polled_append_busyf (samples : List Byte) (v : Byte) (s : State) :
    (polled (samples ++ [v]) s).busyf = busyFlag v := by
  simp [polled]

section
variable (o : Option CmdOutcome) (frames : List Frame) {s : State} (hread : readBusValid s = true)
include hread

/-- Busy samples below the cap bring the block back to step B7, five steps each. -/
theorem microRun_busyPolls {samples rest : List Byte} (hs : s.answers = samples ++ rest)
    (hbusy : samples.all busyFlag = true) (hcap : capReached s.cfg (s.npoll + samples.length) = false) :
    microRun (5 * samples.length) (s.runningAt o (.bfw .b7 :: frames)) =
      .next ((polled samples s).runningAt o (.bfw .b7 :: frames)) := by
  induction samples generalizing s with
  | nil => rw [polled_nil]; rfl
  | cons v vs ih =>
    have hanswers : s.answers = v :: (vs ++ rest) := hs
    have hp := pollOnce_eq hanswers
    simp only [List.all_cons, Bool.and_eq_true] at hbusy
    have hbelow : capReached s.cfg (s.npoll + 1) = false := by
      by_contra hc
      rw [Bool.not_eq_false] at hc
      rw [capReached_mono (by simp) hc] at hcap
      cases hcap
    have hfirst := microRun_poll o frames s hread
    rw [if_pos (by rw [hp]; exact hbusy.1), hbelow, if_neg Bool.false_ne_true] at hfirst
    have hrest := ih (s := pollOnce s) (by rw [hp]; exact hread) (by rw [hp]) hbusy.2 (by
      rw [hp]
      simpa [Nat.add_assoc, Nat.add_comm 1] using hcap)
    rw [List.length_cons, Nat.mul_succ, Nat.add_comm, microRun_add _ hfirst, hrest, polled_cons hanswers]

/-- A wait that returns. -/
theorem microRun_polls_return (hr : waitReturns s.cfg s.answers = true) (hzero : s.npoll = 0) (caller : Frame)
    (below : List Frame) :
    microRun (5 * (busyCount s.answers + 1) + 4) (s.runningAt o (.bfw .b7 :: caller :: below)) =
      .next ((bfwLeave (polled (waitReads s.answers) s)).runningAt o (caller :: below)) := by
  simp only [waitReturns, waitFaults, Bool.and_eq_true, Bool.not_eq_true'] at hr
  obtain ⟨hcap, hready⟩ := hr
  obtain ⟨v, hv, hreads⟩ := waitReads_eq_append hready
  have hsplit : s.answers = s.answers.take (busyCount s.answers) ++ v :: waitRest s.answers := by
    have := List.take_append_drop (busyCount s.answers + 1) s.answers
    rw [← waitReads, hreads, List.append_assoc] at this
    exact this.symm
  have hlen : (s.answers.take (busyCount s.answers)).length = busyCount s.answers :=
    List.length_take_of_le (busyCount_le s.answers)
  have hall : (s.answers.take (busyCount s.answers)).all busyFlag = true :=
    List.all_eq_true.mpr fun w hw => busy_of_mem_take (le_refl _) hw
  have hbusy := microRun_busyPolls o (caller :: below) hread hsplit hall (by rwa [hlen, hzero, Nat.zero_add])
  have hlast := microRun_poll o (caller :: below) (polled (s.answers.take (busyCount s.answers)) s) hread
  rw [← polled_append hsplit, polled_append_busyf, hv, if_neg Bool.false_ne_true, ← hreads] at hlast
  rw [hlen] at hbusy
  rw [Nat.mul_succ, Nat.add_assoc, microRun_add _ hbusy, microRun_add _ hlast]
  exact microRun_bfwLeave o _ caller below

/-- A wait that the cap cuts. -/
theorem microRun_polls_fault {cap : { c : Nat // 0 < c }} (hc : s.cfg.pollCap = some cap) (hzero : s.npoll = 0)
    (hle : cap.val ≤ busyCount s.answers) :
    microRun (5 * cap.val) (s.runningAt o (.bfw .b7 :: frames)) =
      .next (raiseDeviceNotResponding (polled (s.answers.take cap.val) s)) := by
  obtain ⟨n, hn⟩ : ∃ n, cap.val = n + 1 := ⟨cap.val - 1, by have := cap.2; omega⟩
  have hlt : n < s.answers.length := by
    have := busyCount_le s.answers
    omega
  have htake : s.answers.take cap.val = s.answers.take n ++ [s.answers[n]] := by
    rw [hn, List.take_succ_eq_append_getElem hlt]
  have hsplit : s.answers = s.answers.take n ++ s.answers[n] :: s.answers.drop (n + 1) := by
    rw [List.getElem_cons_drop, List.take_append_drop]
  have hmem (w : Byte) (hw : w ∈ s.answers.take n ++ [s.answers[n]]) : busyFlag w = true :=
    busy_of_mem_take hle (htake ▸ hw)
  have hlen : (s.answers.take n).length = n := List.length_take_of_le hlt.le
  have hbusy := microRun_busyPolls o frames hread hsplit
    (List.all_eq_true.mpr fun w hw => hmem w (List.mem_append_left _ hw))
    (by simp [capReached, hc, hzero]; omega)
  have hlast := microRun_poll o frames (polled (s.answers.take n) s) hread
  have hreached : capReached (polled (s.answers.take n) s).cfg ((polled (s.answers.take n) s).npoll + 1) = true := by
    simp [polled, capReached, hc, hzero, hlen, hn]
  rw [← polled_append hsplit, polled_append_busyf, if_pos (hmem _ (List.mem_append_right _ (List.mem_singleton_self _))),
    if_pos hreached, ← htake] at hlast
  rw [hlen] at hbusy
  rw [hn, Nat.mul_succ, microRun_add _ hbusy, hlast, hn]

end

theorem readBusValid_bfwEnter (s : State) : readBusValid (bfwEnter s) = true := by
  rw [bfwEnter_eq]
  simp [readBusValid, Config.bfBit]

/-! ### The obligations -/

/-- Settles O13: steps B1 to B6, the polls, and steps B12 to B14 with the return. -/
theorem bfwPollsUntilReady : Obligations.BfwPollsUntilReady := by
  unfold Obligations.BfwPollsUntilReady
  intro s caller below hseq hupc hr
  have henter : (bfwEnter s).answers = s.answers ∧ (bfwEnter s).cfg = s.cfg ∧ (bfwEnter s).npoll = 0 := by
    rw [bfwEnter_eq]
    exact ⟨rfl, rfl, rfl⟩
  obtain ⟨hanswers, hcfg, hnpoll⟩ := henter
  have hr' : waitReturns (bfwEnter s).cfg (bfwEnter s).answers = true := by rwa [hanswers, hcfg]
  have hpolls := microRun_polls_return s.outcome (readBusValid_bfwEnter s) hr' hnpoll caller below
  have hrun := microRun_bfwEnter s.outcome (caller :: below) s
  rw [← hupc, State.runningAt_self hseq] at hrun
  rw [show 10 + 5 * (busyCount s.answers + 1) = 6 + (5 * (busyCount s.answers + 1) + 4) by omega, microRun_add _ hrun,
    ← hanswers, hpolls, polled_waitReads hr', hanswers, bfwLeave_eq, bfwEnter_eq]
  simp [State.runningAt, hseq, bfwEvents, withLines, waitReads, waitRest]

/-- Settles O14: five steps for each busy answer. -/
theorem busyDisplayKeepsSpinning : Obligations.BusyDisplayKeepsSpinning := by
  unfold Obligations.BusyDisplayKeepsSpinning
  intro s below busy rest hseq hupc hcap hreset hread hanswers hbusy
  have hrun := microRun_busyPolls s.outcome below hread hanswers hbusy (by simp [capReached, hcap])
  rw [← hupc, State.runningAt_self hseq] at hrun
  refine ⟨_, core_run_of_microRun hreset hrun rfl, rfl, hupc, rfl, rfl, ?_, rfl, rfl⟩
  simp [State.runningAt, polled, hanswers]

end Sys2Proof.Machine
end

section
/-! PROOFS. The two readings of a command (spec/10_state.md R21): the sequencer, run label by label from the accepted command, comes to
what `exec` comes to. One lemma for each procedure, chained. -/

namespace Sys2Proof.Machine

/-- Some number of the sequencer's steps from `s` comes to this outcome. -/
def Leads (s : State) (o : Host.Outcome State Fault Refusal) : Prop := ∃ n, microRun n s = o

namespace Leads
variable {s t : State} {o : Host.Outcome State Fault Refusal}

theorem refl (s : State) : Leads s (.next s) := ⟨0, rfl⟩

/-- Some steps, then the rest. -/
theorem run (n : Nat) (hrest : Leads t o) (h : microRun n s = .next t) : Leads s o := by
  obtain ⟨m, hm⟩ := hrest
  exact ⟨n + m, (microRun_add m h).trans hm⟩

/-- One step, then the rest. -/
theorem step (hseq : s.seq = .running) (hrest : Leads t o) (h : microStep s = .next t) : Leads s o :=
  run 1 hrest (microRun_succ hseq h)

theorem refused {r : Refusal} (hseq : s.seq = .running) (h : microStep s = .refused r) : Leads s (.refused r) :=
  ⟨1, by simp [microRun, hseq, h]⟩

end Leads

/-! ### XFER -/

section
variable (kind : Bool) (b : Byte) (callers : List Frame) {s : State} {o : Host.Outcome State Fault Refusal}

/-- A step that drives the bus, with the ports open. -/
theorem Leads.drive {f g : Frame} {below : List Frame} {v : Byte} (hout : s.bpDir = 0xFF)
    (hrest : Leads (suspendAt (g :: below) (driveBus v s)) o)
    (h : microStep (suspendAt (f :: below) s) = driveStep v g below (suspendAt (f :: below) s)) :
    Leads (suspendAt (f :: below) s) o :=
  .step rfl hrest (h.trans (if_pos (by simp [driveBusValid, hout])))

/-- Steps E1 to E7. -/
theorem leads_eightBitStrobe (hout : s.bpDir = 0xFF) (hw : s.width = .eight)
    (hrest : Leads (suspendAt (.bfw .b1 :: .xfer kind b .x8 :: callers) (eightBitStrobe s)) o) :
    Leads (suspendAt (.xfer kind b .x7 :: callers) s) o := by
  have hrelease : microRun 5 (suspendAt (.xfer kind b .e3 :: callers) (driveBus s.dreg (setControl .en false s))) =
      .next (suspendAt (.bfw .b1 :: .xfer kind b .x8 :: callers) (eightBitStrobe s)) := by
    cases hrel : s.cfg.en8Release <;>
      simp [microRun, microStep, xferStep, advance, callFrom, eightBitStrobe, suspendAt, setControl, driveBus, emit, hrel]
  have hstrobe := Leads.drive (f := .xfer kind b .e2) (s := setControl .en false s) hout (.run 5 hrest hrelease) rfl
  exact .step (t := suspendAt (.xfer kind b .e1 :: callers) s) rfl (.step rfl hstrobe rfl) (if_pos hw)

/-- NIBP, called from a step of XFER. -/
theorem leads_nibblePulse {caller : Frame} {v : Byte} (hout : s.bpDir = 0xFF)
    (hrest : Leads (suspendAt (caller :: callers) (nibblePulse v s)) o) :
    Leads (suspendAt (.nibp v .n1 :: caller :: callers) s) o :=
  Leads.drive (g := .nibp v .n2) (v := v) hout (.run 5 hrest rfl) rfl

/-- Steps F3 to F5. -/
theorem leads_nibbles (hout : s.bpDir = 0xFF)
    (hrest : Leads (suspendAt (.bfw .b1 :: .xfer kind b .x8 :: callers)
      (nibblePulse (lowNibble s.dreg) (nibblePulse (highNibble s.dreg) s))) o) :
    Leads (suspendAt (.xfer kind b .f3 :: callers) s) o := by
  refine .step (t := suspendAt (.nibp (highNibble s.dreg) .n1 :: .xfer kind b .f4 :: callers) s) rfl
    (leads_nibblePulse callers hout ?_) rfl
  have hout' : (nibblePulse (highNibble s.dreg) s).bpDir = 0xFF := hout
  have hdreg : (nibblePulse (highNibble s.dreg) s).dreg = s.dreg := rfl
  generalize nibblePulse (highNibble s.dreg) s = u at hrest hout' hdreg ⊢
  rw [← hdreg] at hrest
  exact .step (t := suspendAt (.nibp (lowNibble u.dreg) .n1 :: .xfer kind b .f5 :: callers) u) rfl
    (leads_nibblePulse callers hout' (.step rfl hrest rfl)) rfl

/-- Steps F1 to F5. -/
theorem leads_fourBitStrobes (hout : s.bpDir = 0xFF) (hw : s.width = .four)
    (hrest : Leads (suspendAt (.bfw .b1 :: .xfer kind b .x8 :: callers) (fourBitStrobes s)) o) :
    Leads (suspendAt (.xfer kind b .x7 :: callers) s) o := by
  have hne : s.width ≠ .eight := by rw [hw]; decide
  have hnibbles := leads_nibbles kind b callers (s := setControl .rw false (setControl .rs s.kind s)) hout hrest
  exact .step (t := suspendAt (.xfer kind b .f1 :: callers) s) rfl (.run 2 hnibbles rfl) (if_neg hne)

/-- XFER up to step B7. -/
theorem leads_inWait (hw : s.width ≠ .unset)
    (hrest : Leads (suspendAt (.bfw .b7 :: .xfer kind b .x8 :: callers) (inWait kind b [] s)) o) :
    Leads (suspendAt (.xfer kind b .x1 :: callers) s) o := by
  have hopened := openPorts_eq { s with dreg := b, kind := kind }
  suffices hstrobes : Leads (suspendAt (.xfer kind b .x7 :: callers) (openPorts { s with dreg := b, kind := kind })) o by
    have htest : Leads (suspendAt (.xfer kind b .x4 :: callers)
        { s with dreg := b, kind := kind, sv1Cp := s.cpDir, sv1Bp := s.bpDir }) o :=
      .step rfl (.run 2 hstrobes rfl) (if_neg hw)
    exact .run 3 htest rfl
  have hwidth : s.width = .eight ∨ s.width = .four := by
    cases h : s.width <;> simp_all
  obtain h | h := hwidth
  · rw [← xfer_open_eight h] at hrest
    exact leads_eightBitStrobe kind b callers (by rw [hopened]) (by rw [hopened]; exact h) (.run 6 hrest rfl)
  · rw [← xfer_open_four h] at hrest
    exact leads_fourBitStrobes kind b callers (by rw [hopened]) (by rw [hopened]; exact h) (.run 6 hrest rfl)

end

theorem readBusValid_inWait (kind : Bool) (b : Byte) (s : State) : readBusValid (inWait kind b [] s) = true := by
  simp [readBusValid, inWait, Config.bfBit]

/-- XFER, called from a step of a command, and the rest of the command after it. -/
theorem leads_xfer_andThen (kind : Bool) (b : Byte) (f : Frame) (s : State) {k : State → Flow}
    (hk : Leads (suspendAt [f] (afterTransfer kind b s)) (k (afterTransfer kind b s)).toOutcome) :
    Leads (suspendAt [.xfer kind b .x1, f] s) ((xfer [f] kind b s).andThen k).toOutcome := by
  have hread := readBusValid_inWait kind b s
  obtain ⟨hw, hx⟩ | ⟨hw, hr, hx⟩ | ⟨hw, hp, hx⟩ | ⟨hw, cap, hc, hf, hx⟩ := xfer_cases [f] kind b s <;> rw [hx]
  · have htest : Leads (suspendAt [.xfer kind b .x4, f]
        { s with dreg := b, kind := kind, sv1Cp := s.cpDir, sv1Bp := s.bpDir }) (.refused .useBeforeInit) :=
      .refused rfl (if_pos hw)
    exact .run 3 htest rfl
  · refine leads_inWait kind b [f] hw (.run _ ?_ (microRun_polls_return none hread hr rfl _ _))
    change Leads (suspendAt [.xfer kind b .x8, f] (bfwLeave (polled (waitReads s.answers) (inWait kind b [] s)))) _
    rw [polled_inWait]
    rw [← closed_inWait (Bool.and_eq_true_iff.mp hr).2] at hk ⊢
    exact .run 3 hk rfl
  · simp only [waitPending, waitFaults, Bool.and_eq_true, Bool.not_eq_true'] at hp
    obtain ⟨hcap, hall⟩ := hp
    rw [busyCount_of_all hall] at hcap
    have hpolls := microRun_busyPolls none [.xfer kind b .x8, f] hread (rest := []) (List.append_nil _).symm hall
      (by simpa [inWait] using hcap)
    rw [polled_inWait] at hpolls
    exact leads_inWait kind b [f] hw (.run _ (.refl _) hpolls)
  · have hle : cap.val ≤ busyCount s.answers := by simpa [waitFaults, capReached, hc] using hf
    have hpolls := microRun_polls_fault none [.xfer kind b .x8, f] hread hc rfl hle
    change microRun _ _ = .next (raiseDeviceNotResponding (polled (s.answers.take cap.val) (inWait kind b [] s))) at hpolls
    rw [polled_inWait] at hpolls
    exact leads_inWait kind b [f] hw (.run _ (.refl _) hpolls)

/-- A command that ends with a transfer: its last step is the return. -/
theorem leads_xfer (kind : Bool) (b : Byte) (f : Frame) (s : State)
    (hf : microStep (suspendAt [f] (afterTransfer kind b s)) = .next (endCommand .done (afterTransfer kind b s))) :
    Leads (suspendAt [.xfer kind b .x1, f] s) (xfer [f] kind b s).toOutcome := by
  have hdone : xfer [f] kind b s = (xfer [f] kind b s).andThen .done := by cases xfer [f] kind b s <;> rfl
  rw [hdone]
  exact leads_xfer_andThen kind b f s (.step rfl (.refl _) hf)

/-! ### RAWP and INIT -/

theorem leads_rawPulse {v : Byte} {n : Nat} {f : Frame} {s : State} {o : Host.Outcome State Fault Refusal}
    (hrest : Leads (suspendAt [f] (rawPulse v n s)) o) : Leads (suspendAt [.rawp v n .p1, f] s) o := by
  have hout : (setControl .en false (openPorts s)).bpDir = 0xFF := by rw [setControl_bpDir, openPorts_eq]
  have hdrive := Leads.drive (f := .rawp v n .p6) (g := .rawp v n .p7) (below := [f]) (v := v) hout
    (.run 8 hrest rfl) rfl
  exact .run 5 hdrive rfl

/-- A step of INIT that calls RAWP. -/
theorem leads_initPulse {w n : Nat} {v : Byte} {l l' : InitLabel} {s : State}
    {o : Host.Outcome State Fault Refusal} (hrest : Leads (suspendAt [.init w l'] (rawPulse v n s)) o)
    (hcall : microStep (suspendAt [.init w l] s) = .next (suspendAt [.rawp v n .p1, .init w l'] s)) :
    Leads (suspendAt [.init w l] s) o :=
  .step rfl (leads_rawPulse hrest) hcall

/-- Steps I10 to I15. -/
theorem leads_initTransfers (w : Nat) (s : State) :
    Leads (suspendAt [.init w .i10] s) (initTransfers w s).toOutcome := by
  refine .step rfl (leads_xfer_andThen false (initFunctionSet s.cfg w) (.init w .i11) s ?_) rfl
  generalize afterTransfer _ _ s = s
  refine .step rfl (leads_xfer_andThen false s.cfg.cmdDisplayOff (.init w .i12) s ?_) rfl
  generalize afterTransfer _ _ s = s
  refine .step rfl (leads_xfer_andThen false s.cfg.cmdClear (.init w .i13) s ?_) rfl
  generalize afterTransfer _ _ s = s
  refine .step rfl (leads_xfer_andThen false s.cfg.cmdEntryMode (.init w .i14) s ?_) rfl
  generalize afterTransfer _ _ s = s
  refine .step rfl (leads_xfer_andThen false s.cfg.cmdDisplayOn (.init w .i15) s ?_) rfl
  exact .run 2 (.refl _) rfl

/-- Steps I7 to I9. -/
theorem leads_initSwitch {w : Nat} {width : BusWidth} (hw : initWidth w = some width) {s u : State}
    (hu : (if w = 8 then s else rawPulse s.cfg.cmdFsSwitch4 Config.tModesw s) = u)
    {o : Host.Outcome State Fault Refusal}
    (hrest : Leads (suspendAt [.init w .i10] { u with width := width }) o) : Leads (suspendAt [.init w .i7] s) o := by
  obtain ⟨rfl, rfl⟩ | ⟨rfl, rfl⟩ := initWidth_eq_some.mp hw
  · rw [if_pos rfl] at hu
    subst hu
    exact .run 2 hrest rfl
  · rw [if_neg (by decide)] at hu
    refine .step (t := suspendAt [.init 4 .i8] s) rfl
      (leads_initPulse (v := s.cfg.cmdFsSwitch4) (n := Config.tModesw) (l' := .i9) ?_ rfl) rfl
    rw [hu]
    exact .step rfl hrest rfl

/-- Steps I2 to I9. -/
theorem leads_initPulses {w : Nat} {width : BusWidth} (hw : initWidth w = some width) (s : State)
    {o : Host.Outcome State Fault Refusal}
    (hrest : Leads (suspendAt [.init w .i10] { initPulses w s with width := width }) o) :
    Leads (suspendAt [.init w .i2] s) o := by
  refine .run 2 (t := suspendAt [.init w .i4] (delay Config.tPower { s with sess := .initializing })) ?_ rfl
  generalize hu : initPulses w s = t at hrest
  dsimp only [initPulses] at hu
  generalize delay Config.tPower { s with sess := .initializing } = u at hu ⊢
  refine leads_initPulse (v := u.cfg.cmdFsReset) (n := Config.tRst1) (l' := .i5) ?_ rfl
  generalize rawPulse u.cfg.cmdFsReset Config.tRst1 u = u at hu ⊢
  refine leads_initPulse (v := u.cfg.cmdFsReset) (n := Config.tRst2) (l' := .i6) ?_ rfl
  generalize rawPulse u.cfg.cmdFsReset Config.tRst2 u = u at hu ⊢
  refine leads_initPulse (v := u.cfg.cmdFsReset) (n := Config.tRst3) (l' := .i7) ?_ rfl
  exact leads_initSwitch hw hu hrest

theorem leads_init (w : Nat) (s : State) : Leads (suspendAt [.init w .i1] s) (exec (.init w) s) := by
  cases hw : initWidth w with
  | none =>
    rw [exec_init_noOp hw]
    exact .step rfl (.refl _) (if_pos (initWidth_eq_none.mp hw))
  | some width =>
    have hsupported : ¬(w ≠ 4 ∧ w ≠ 8) := by
      rw [← initWidth_eq_none, hw]
      nofun
    rw [exec_init_of_width hw, ← initPulses_eq]
    have hstart := leads_initPulses hw s (leads_initTransfers w _)
    exact .step rfl hstart (if_neg hsupported)

/-! ### DISPLAY -/

theorem toNat_add_one {i : TextIndex} (h : i.toNat < 32) : (i + 1).toNat = i.toNat + 1 := by
  rw [BitVec.toNat_add]
  exact Nat.mod_eq_of_lt (by simp; omega)

theorem forceLine2_eq (s : State) :
    forceLine2 s = { s with cur := if s.idx.toNat = 16 then 0x40 else s.cur } := by
  unfold forceLine2
  split <;> simp_all [Config.lineLen, Config.line2Addr]

theorem forceLine2_idx (s : State) : (forceLine2 s).idx = s.idx := by
  rw [forceLine2_eq]

theorem microStep_s8 (s : State) :
    microStep (suspendAt [.display .s8] s) = .next (suspendAt [.display .s9] (forceLine2 s)) := by
  change advance (.display .s9) [] (forceLine2 (suspendAt [.display .s8] s)) = _
  rw [forceLine2_eq, forceLine2_eq]
  rfl

/-- Steps S10 to S14, and the rest of the walk. -/
theorem leads_writeChar {s : State} {k : State → Flow}
    (hk : ∀ u, u.idx = s.idx → Leads (suspendAt [.display .s5] (advanceCursor u)) (k u).toOutcome) :
    Leads (suspendAt [.display .s10] s)
      ((xfer [.display .s11] false (setDdramByte s.cfg s.cur) s).andThen fun s =>
        (xfer [.display .s12] true s.chr s).andThen k).toOutcome := by
  refine .step rfl (leads_xfer_andThen false (setDdramByte s.cfg s.cur) (.display .s11) s ?_) rfl
  have hidx : (afterTransfer false (setDdramByte s.cfg s.cur) s).idx = s.idx := rfl
  generalize afterTransfer false (setDdramByte s.cfg s.cur) s = u at hidx ⊢
  refine .step rfl (leads_xfer_andThen true u.chr (.display .s12) u ?_) rfl
  have hidx' : (afterTransfer true u.chr u).idx = s.idx := hidx
  generalize afterTransfer true u.chr u = u at hidx' ⊢
  exact .run 3 (hk u hidx') rfl

/-- Steps S5 to S14, with passes enough for the positions that are left. -/
theorem leads_textWalk {n : Nat} {s : State} (hn : 33 ≤ s.idx.toNat + n) :
    Leads (suspendAt [.display .s5] s) (textWalk n s).toOutcome := by
  induction n generalizing s with
  | zero => exact .step rfl (.refl _) (if_pos (show 32 ≤ s.idx.toNat by omega))
  | succ n ih =>
    by_cases hend : 32 ≤ s.idx.toNat
    · rw [show textWalk (n + 1) s = .done s from if_pos hend]
      exact .step rfl (.refl _) (if_pos hend)
    have hidx : s.idx.toNat < 32 := by omega
    have hnext : 33 ≤ (s.idx + 1).toNat + n := by
      rw [toNat_add_one hidx]
      omega
    refine .step (t := suspendAt [.display .s6] s) rfl (.step (t := suspendAt [.display .s7] (loadChar s)) rfl ?_
      (if_pos hidx)) (if_neg hend)
    rw [show textWalk (n + 1) s = _ from if_neg hend]
    have hnext' : 33 ≤ ((loadChar s).idx + 1).toNat + n := hnext
    dsimp only
    generalize loadChar s = s at hnext' ⊢
    split
    case isTrue hterm => exact .step rfl (.refl _) (if_pos hterm)
    case isFalse hterm =>
      refine .step (t := suspendAt [.display .s8] s) rfl (.step rfl ?_ (microStep_s8 s))
        (if_neg hterm)
      rw [← forceLine2_idx] at hnext'
      generalize forceLine2 s = s at hnext' ⊢
      split
      case isTrue hnl => exact .step (t := suspendAt [.display .s5] (takeNewline s)) rfl (ih hnext') (if_pos hnl)
      case isFalse hnl =>
        refine .step (t := suspendAt [.display .s10] s) rfl (leads_writeChar fun u hu => ih ?_) (if_neg hnl)
        change 33 ≤ (u.idx + 1).toNat + n
        rwa [hu]

theorem leads_display {s : State} (h : s.sess = .ready) :
    Leads (suspendAt [.display .s1] s) (exec .display s) := by
  rw [exec_display_ready h]
  refine .step (t := suspendAt [.display .s2] s) rfl (.step rfl (leads_xfer_andThen false s.cfg.cmdClear (.display .s3) s ?_)
    rfl) (if_pos h)
  generalize afterTransfer _ _ s = u
  exact .run 2 (leads_textWalk (s := { u with cur := Config.line1Addr, idx := 0 }) (by simp [Config.maxIdx])) rfl

/-! ### The obligation -/

/-- The sequencer, from the accepted command, comes to what the command comes to. -/
theorem leads_exec (i : Instr) (s : State) : Leads (acceptCommand i s) (exec i s) := by
  cases i with
  | wri b => exact .step rfl (leads_xfer false b (.wri b .ret) s rfl) rfl
  | wrd b => exact .step rfl (leads_xfer true b (.wrd b .ret) s rfl) rfl
  | init w => exact leads_init w s
  | clear =>
    by_cases h : s.sess = .ready
    · rw [exec_clear_ready h]
      exact .step (t := suspendAt [.clear .c2] s) rfl
        (.step rfl (leads_xfer false s.cfg.cmdClear (.clear .ret) s rfl) rfl) (if_pos h)
    · rw [exec_clear_not_ready h]
      exact .refused rfl (if_neg h)
  | display =>
    by_cases h : s.sess = .ready
    · exact leads_display h
    · rw [exec_display_not_ready h]
      exact .refused rfl (if_neg h)

/-- Settles O46: one lemma for each procedure. -/
theorem commandIsItsSteps : Obligations.CommandIsItsSteps := by
  unfold Obligations.CommandIsItsSteps
  refine fun i s => ⟨fun t h => ?_, fun r h => ?_, fun f h => nomatch exec_cases h⟩
  · exact h ▸ leads_exec i s
  · exact h ▸ leads_exec i s

end Sys2Proof.Machine
end

section
/-! PROOFS. The invariant of the machine: every label of the sequencer takes a sound stack to a sound stack, is not stuck, and
writes a control line only with the control port an output (spec/40_pin_interface.md R83; spec/10_state.md R20, R21). -/

namespace Sys2Proof.Machine

/-! ### The stack, shape by shape -/

/-- The stacks that can stand in UPC, with what each promises of the state. -/
inductive StackOk (s : State) : List Frame → Prop
  | empty : StackOk s []
  | command {f : Frame} (h : commandOk s f = true) : StackOk s [f]
  | xfer {k : Bool} {b : Byte} {l : XferLabel} {f : Frame} (hcaller : callerOk s f = true) (hx : xferOk s l = true) :
      StackOk s [.xfer k b l, f]
  | rawp {v : Byte} {n w : Nat} {l : RawpLabel} {il : InitLabel} (hinit : (w == 4 || w == 8) && s.sess == .initializing)
      (hil : il = .i5 ∨ il = .i6 ∨ il = .i7 ∨ il = .i9) (hr : rawpOk s l = true) : StackOk s [.rawp v n l, .init w il]
  | nibp {v : Byte} {k : Bool} {b : Byte} {nl : NibpLabel} {l : XferLabel} {f : Frame} (hcaller : callerOk s f = true)
      (hopen : (widthSet s && portsOut s) = true) (hl : l = .f4 ∨ l = .f5) : StackOk s [.nibp v nl, .xfer k b l, f]
  | bfw {k : Bool} {b : Byte} {l : BfwLabel} {f : Frame} (hcaller : callerOk s f = true) (hw : widthSet s = true)
      (hb : bfwOk s l = true) : StackOk s [.bfw l, .xfer k b .x8, f]

theorem stackOk_iff (s : State) : stackOk s = true ↔ StackOk s s.upc := by
  unfold stackOk
  constructor
  · intro h
    split at h
    · rw [‹s.upc = _›]; exact .empty
    · rw [‹s.upc = _›]; exact .command h
    · rw [‹s.upc = _›]
      obtain ⟨hc, hx⟩ := Bool.and_eq_true_iff.mp h
      exact .xfer hc hx
    · rw [‹s.upc = _›]
      simp only [Bool.and_eq_true, Bool.or_eq_true, beq_iff_eq] at h
      obtain ⟨⟨⟨hw, hs⟩, hil⟩, hr⟩ := h
      exact .rawp (by simpa using ⟨hw, hs⟩) (by simpa [or_assoc] using hil) hr
    · rw [‹s.upc = _›]
      simp only [Bool.and_eq_true, Bool.or_eq_true, beq_iff_eq] at h
      obtain ⟨⟨⟨hc, hw⟩, ho⟩, hl⟩ := h
      exact .nibp hc (by simpa using ⟨hw, ho⟩) hl
    · rw [‹s.upc = _›]
      simp only [Bool.and_eq_true] at h
      obtain ⟨⟨hc, hw⟩, hb⟩ := h
      exact .bfw hc hw hb
    · cases h
  · intro h
    generalize s.upc = frames at h
    cases h with
    | empty => rfl
    | command h => exact h
    | xfer hc hx => simp [hc, hx]
    | rawp hinit hil hr => simp_all [or_assoc]
    | nibp hc ho hl => simp_all
    | bfw hc hw hb => simp [hc, hw, hb]

/-- It reads no UPC of its own. -/
theorem StackOk.with_upc {s : State} {frames : List Frame} (h : StackOk s frames) (upc : List Frame) :
    StackOk { s with upc := upc } frames := by
  cases h with
  | empty => exact .empty
  | command h => exact .command h
  | xfer hc hx => exact .xfer hc hx
  | rawp hinit hil hr => exact .rawp hinit hil hr
  | nibp hc ho hl => exact .nibp hc ho hl
  | bfw hc hw hb => exact .bfw hc hw hb

/-- The clauses of the invariant on the session. -/
structure SessionOk (s : State) : Prop where
  idx_le : s.idx.toNat ≤ 32
  ready_has_width : s.sess = .ready → s.width ≠ .unset

/-- What a step from `s` to `t` owes the control port: no control line is written unless its pins are outputs. -/
def ControlsOpen (s t : State) : Prop := (∃ l b, newEvents s t = [.ctlW l b]) → s.cpDir = 0xFF

theorem ControlsOpen.of_open {s t : State} (h : s.cpDir = 0xFF) : ControlsOpen s t := fun _ => h

theorem ControlsOpen.silent {s t : State} (h : t.trace = s.trace) : ControlsOpen s t := by
  rintro ⟨l, b, hev⟩
  simp [newEvents, h] at hev

theorem ControlsOpen.event {s t : State} {e : Event} (h : t.trace = s.trace ++ [e]) (he : ∀ l b, e ≠ .ctlW l b) :
    ControlsOpen s t := by
  rintro ⟨l, b, hev⟩
  rw [newEvents_of_trace h] at hev
  exact absurd (List.cons.inj hev).1 (he l b)

/-- What a step of the sequencer from `s` comes to when nothing is stuck. -/
def Sound (s : State) : Host.Outcome State Fault Refusal → Prop
  | .next t => StackOk t t.upc ∧ (SessionOk s → SessionOk t) ∧ ControlsOpen s t
  | .refused r => r = .useBeforeInit ∨ r = .notReady
  | .fault _ => False

/-- An operation inside a step that leaves what the callers' promises read. -/
structure Kept (s u : State) : Prop where
  width : u.width = s.width
  sess : u.sess = s.sess
  idx : u.idx = s.idx
  cur : u.cur = s.cur
  controls : ControlsOpen s u

namespace Kept
variable {s u : State}

theorem refl (s : State) : Kept s s := ⟨rfl, rfl, rfl, rfl, .silent rfl⟩

/-- Registers of the procedures are written, and nothing is emitted. -/
theorem scratch (dreg : Byte) (kind : Bool) (sv1Cp sv1Bp sv2Cp sv2Bp : Byte) (npoll : Nat) (chr : Byte) :
    Kept s { s with
      dreg := dreg, kind := kind, sv1Cp := sv1Cp, sv1Bp := sv1Bp, sv2Cp := sv2Cp, sv2Bp := sv2Bp, npoll := npoll,
      chr := chr } :=
  ⟨rfl, rfl, rfl, rfl, .silent rfl⟩

theorem control (l : Line) (b : Bool) (h : s.cpDir = 0xFF) : Kept s (setControl l b s) :=
  ⟨rfl, rfl, rfl, rfl, .of_open h⟩

theorem load (p : Port) (v : Byte) : Kept s (loadDirection p v s) := by
  cases p <;> exact ⟨rfl, rfl, rfl, rfl, .event rfl nofun⟩

theorem setDirection (p : Port) (m : Byte) (o : Bool) : Kept s (setDirection p m o s) := load ..

theorem drive (v : Byte) : Kept s (driveBus v s) := ⟨rfl, rfl, rfl, rfl, .event rfl nofun⟩

theorem delay (n : Nat) : Kept s (delay n s) := ⟨rfl, rfl, rfl, rfl, .event rfl nofun⟩

theorem sample (h : s.cpDir = 0xFF) : Kept s (sampleBusy s) := ⟨by simp, by simp, by simp, by simp, .of_open h⟩

theorem session (h : Kept s u) (hs : SessionOk s) : SessionOk u :=
  ⟨h.idx ▸ hs.idx_le, by rw [h.sess, h.width]; exact hs.ready_has_width⟩

theorem widthSet (h : Kept s u) : widthSet u = widthSet s := by rw [Machine.widthSet, Machine.widthSet, h.width]

theorem callerOk (h : Kept s u) (f : Frame) : callerOk u f = callerOk s f := by
  have hcur : cursorAtWrite u = cursorAtWrite s := by rw [cursorAtWrite, cursorAtWrite, h.idx, h.cur]
  unfold Machine.callerOk
  rw [h.widthSet, h.sess, hcur]

end Kept

/-- A caller that is returned to runs a step of its own. -/
theorem commandOk_of_callerOk {s : State} {f : Frame} (h : callerOk s f = true) : commandOk s f = true := by
  unfold callerOk at h
  split at h
  · rfl
  · rfl
  · exact h
  · simp only [Bool.and_eq_true, Bool.or_eq_true, beq_iff_eq] at h
    obtain ⟨h, (((rfl | rfl) | rfl) | rfl) | rfl⟩ := h <;> simpa [commandOk] using h
  · simp only [Bool.and_eq_true, Bool.or_eq_true, beq_iff_eq] at h
    obtain ⟨⟨hw, hs⟩, rfl | ⟨rfl | rfl, hcur⟩⟩ := h
    · simp [commandOk, hw, hs]
    · simp [commandOk, hw, hs, hcur]
    · simp [commandOk, hw, hs, hcur]
  · cases h

/-! ### What the three ways of ending a step keep -/

namespace Sound
variable {s u : State} {frames : List Frame}

theorem ite {c : Prop} [Decidable c] {a b : Host.Outcome State Fault Refusal} (ha : c → Sound s a) (hb : ¬c → Sound s b) :
    Sound s (if c then a else b) := by
  split
  · exact ha ‹_›
  · exact hb ‹_›

theorem next (hstack : StackOk u frames) (hu : SessionOk s → SessionOk u) (hctl : ControlsOpen s u) :
    Sound s (.next { u with upc := frames }) :=
  ⟨hstack.with_upc frames, fun hs => ⟨(hu hs).idx_le, (hu hs).ready_has_width⟩, hctl⟩

theorem kept (hu : Kept s u) (hstack : StackOk u frames) : Sound s (.next { u with upc := frames }) :=
  next hstack hu.session hu.controls

theorem ended (o : CmdOutcome) : Sound s (returnWith o [] s) :=
  ⟨.empty, fun hs => ⟨hs.idx_le, hs.ready_has_width⟩, .silent rfl⟩

theorem command {f : Frame} (hu : Kept s u) (h : commandOk u f = true) : Sound s (advance f [] u) :=
  kept hu (.command h)

theorem xfer {k : Bool} {b : Byte} {l : XferLabel} {f : Frame} (hu : Kept s u) (hc : callerOk s f = true)
    (hx : xferOk u l = true) : Sound s (advance (.xfer k b l) [f] u) :=
  kept hu (.xfer ((hu.callerOk f).trans hc) hx)

theorem rawp {v : Byte} {n w : Nat} {l : RawpLabel} {il : InitLabel} (hu : Kept s u)
    (hinit : (w == 4 || w == 8) && s.sess == .initializing) (hil : il = .i5 ∨ il = .i6 ∨ il = .i7 ∨ il = .i9)
    (hr : rawpOk u l = true) : Sound s (advance (.rawp v n l) [.init w il] u) :=
  kept hu (.rawp (hu.sess ▸ hinit) hil hr)

theorem bfw {k : Bool} {b : Byte} {l : BfwLabel} {f : Frame} (hu : Kept s u) (hc : callerOk s f = true)
    (hw : widthSet s = true) (hb : bfwOk u l = true) : Sound s (advance (.bfw l) [.xfer k b .x8, f] u) :=
  kept hu (.bfw ((hu.callerOk f).trans hc) (hu.widthSet.trans hw) hb)

theorem drive {v : Byte} {f : Frame} {below : List Frame} (hout : s.bpDir = 0xFF)
    (h : Sound s (advance f below (driveBus v s))) : Sound s (driveStep v f below s) :=
  ite (fun _ => h) (fun hn => absurd (by simp [driveBusValid, hout]) hn)

end Sound

theorem cpDir_of_portsOut {s : State} (h : portsOut s = true) : s.cpDir = 0xFF :=
  beq_iff_eq.mp (Bool.and_eq_true_iff.mp h).1

theorem bpDir_of_portsOut {s : State} (h : portsOut s = true) : s.bpDir = 0xFF :=
  beq_iff_eq.mp (Bool.and_eq_true_iff.mp h).2

/-! ### The procedures, label by label -/

theorem xferStep_sound (k : Bool) (b : Byte) (l : XferLabel) {f : Frame} {s : State} (hc : callerOk s f = true)
    (hx : xferOk s l = true) : Sound s (xferStep k b l [f] s) := by
  have hopen (h : (widthSet s && portsOut s) = true) : s.cpDir = 0xFF :=
    cpDir_of_portsOut (Bool.and_eq_true_iff.mp h).2
  cases l with
  | x1 | x2 | x3 => exact .xfer (.scratch ..) hc rfl
  | x4 => exact .ite (fun _ => .inl rfl) fun hne => .xfer (.refl s) hc (by simpa [xferOk, widthSet] using hne)
  | x5 => exact .xfer (.setDirection ..) hc (by simpa [xferOk, widthSet] using hx)
  | x6 => exact .xfer (.setDirection ..) hc (by simpa [xferOk, widthSet, portsOut] using hx)
  | x7 => exact .ite (fun _ => .xfer (.refl s) hc hx) fun _ => .xfer (.refl s) hc hx
  | x8 => exact .xfer (.load ..) hc (Bool.and_eq_true_iff.mp hx).1
  | x9 => exact .xfer (.load ..) hc hx
  | e1 | e3 | e4 | e5 | f1 | f2 => exact .xfer (.control _ _ (hopen hx)) hc hx
  | e2 => exact .drive (bpDir_of_portsOut (Bool.and_eq_true_iff.mp hx).2) (.xfer (.drive _) hc hx)
  | e6 =>
    simp only [xferStep]
    split
    · exact .xfer (.refl s) hc hx
    · exact .xfer (.control _ _ (hopen hx)) hc hx
  | e7 | f5 => exact .kept (.refl s) (.bfw hc (Bool.and_eq_true_iff.mp hx).1 (Bool.and_eq_true_iff.mp hx).2)
  | f3 => exact .kept (.refl s) (.nibp hc hx (.inl rfl))
  | f4 => exact .kept (.refl s) (.nibp hc hx (.inr rfl))
  | ret => exact .kept (.refl s) (.command (commandOk_of_callerOk hc))

theorem nibpStep_sound (v : Byte) (nl : NibpLabel) {k : Bool} {b : Byte} {l : XferLabel} {f : Frame} {s : State}
    (hc : callerOk s f = true) (ho : (widthSet s && portsOut s) = true) (hl : l = .f4 ∨ l = .f5) :
    Sound s (nibpStep v nl [.xfer k b l, f] s) := by
  have hports := (Bool.and_eq_true_iff.mp ho).2
  have hcp := cpDir_of_portsOut hports
  cases nl with
  | n1 => exact .drive (bpDir_of_portsOut hports) (.kept (.drive _) (.nibp hc ho hl))
  | n2 | n4 => exact .kept (.control _ _ hcp) (.nibp hc ho hl)
  | n3 | n5 => exact .kept (.delay _) (.nibp hc ho hl)
  | ret =>
    refine .kept (.refl s) (.xfer hc ?_)
    obtain rfl | rfl := hl <;> exact ho

theorem cpDir_of_bfwOk {s : State} {l : BfwLabel} (hb : bfwOk s l = true) : s.cpDir = 0xFF := by
  cases l <;> simp_all [bfwOk, portsOut]

theorem bfwStep_sound (l : BfwLabel) {k : Bool} {b : Byte} {f : Frame} {s : State} (hc : callerOk s f = true)
    (hw : widthSet s = true) (hb : bfwOk s l = true) : Sound s (bfwStep l [.xfer k b .x8, f] s) := by
  have hcp := cpDir_of_bfwOk hb
  cases l with
  | b1 => exact .bfw (.scratch ..) hc hw (by simpa [bfwOk, portsOut, hcp] using hb)
  | b2 =>
    simp only [bfwOk, portsOut, Bool.and_eq_true, beq_iff_eq] at hb
    obtain ⟨⟨-, hbp⟩, hsv⟩ := hb
    exact .bfw (.scratch ..) hc hw (by simp [bfwOk, portsOut, hcp, hbp, hsv])
  | b3 =>
    simp only [bfwOk, portsOut, Bool.and_eq_true, beq_iff_eq] at hb
    obtain ⟨⟨⟨-, hbp⟩, hsv⟩, hsv'⟩ := hb
    exact .bfw (.setDirection ..) hc hw (by simp [bfwOk, Config.bfMask, hcp, hbp, hsv, hsv'])
  | b4 | b5 | b7 | b9 => exact .bfw (.control _ _ hcp) hc hw hb
  | b6 | b10 => exact .bfw (.scratch ..) hc hw hb
  | b8 =>
    simp only [bfwOk, Bool.and_eq_true, beq_iff_eq] at hb
    obtain ⟨⟨⟨-, hbp⟩, hsv⟩, hsv'⟩ := hb
    refine .ite (fun _ => .bfw (.sample hcp) hc hw (by simp [bfwOk, hcp, hbp, hsv, hsv'])) fun hn => absurd ?_ hn
    simp [readBusValid, Config.bfBit, hbp]
  | b11 =>
    have hfault : Sound s (.next (raiseDeviceNotResponding s)) := by
      rw [raiseDeviceNotResponding_eq]
      exact ⟨.empty, fun hs => ⟨hs.idx_le, hs.ready_has_width⟩, .of_open hcp⟩
    exact .ite (fun _ => .ite (fun _ => hfault) fun _ => .bfw (.refl s) hc hw hb) fun _ => .bfw (.refl s) hc hw hb
  | b12 => exact .bfw (.delay _) hc hw hb
  | b13 =>
    simp only [bfwOk, Bool.and_eq_true, beq_iff_eq] at hb
    obtain ⟨⟨⟨-, hbp⟩, hsv⟩, hsv'⟩ := hb
    exact .bfw (.load ..) hc hw (by simp [bfwOk, hbp, hsv, hsv'])
  | b14 =>
    simp only [bfwOk, Bool.and_eq_true, beq_iff_eq] at hb
    obtain ⟨-, hsv'⟩ := hb
    exact .bfw (.load ..) hc hw (by simp [bfwOk, portsOut, hcp, hsv'])
  | ret => exact .kept (.refl s) (.xfer hc (Bool.and_eq_true_iff.mpr ⟨hw, hb⟩))

theorem rawpStep_sound (v : Byte) (n : Nat) (l : RawpLabel) {w : Nat} {il : InitLabel} {s : State}
    (hinit : (w == 4 || w == 8) && s.sess == .initializing) (hil : il = .i5 ∨ il = .i6 ∨ il = .i7 ∨ il = .i9)
    (hr : rawpOk s l = true) : Sound s (rawpStep v n l [.init w il] s) := by
  cases l with
  | p1 | p2 => exact .rawp (.scratch ..) hinit hil rfl
  | p3 => exact .rawp (.setDirection ..) hinit hil (by simp [rawpOk])
  | p4 => exact .rawp (.setDirection ..) hinit hil (by simpa [rawpOk, portsOut] using hr)
  | p5 | p7 | p8 | p9 | p10 => exact .rawp (.control _ _ (cpDir_of_portsOut hr)) hinit hil hr
  | p6 => exact .drive (bpDir_of_portsOut hr) (.rawp (.drive _) hinit hil hr)
  | p11 => exact .rawp (.delay _) hinit hil hr
  | p12 | p13 => exact .rawp (.load ..) hinit hil rfl
  | ret =>
    refine .kept (.refl s) (.command ?_)
    obtain rfl | rfl | rfl | rfl := hil <;> exact hinit

theorem initStep_sound (w : Nat) (l : InitLabel) {s : State} (h : commandOk s (.init w l) = true) :
    Sound s (initStep w l [] s) := by
  have hxfer {il : InitLabel} {b : Byte} (hil : il = .i11 ∨ il = .i12 ∨ il = .i13 ∨ il = .i14 ∨ il = .i15)
      (h : ((w == 4 || w == 8) && widthSet s && s.sess == .initializing) = true) :
      Sound s (callFrom (.xfer false b .x1) (.init w il) [] s) := by
    refine .kept (.refl s) (.xfer ?_ rfl)
    obtain rfl | rfl | rfl | rfl | rfl := hil <;> simpa [callerOk] using h
  cases l with
  | i1 => exact .ite (fun _ => .ended _) fun hn => .command (.refl s) (by simp [commandOk]; omega)
  | i2 =>
    exact .next (.command (by simpa [commandOk] using h)) (fun hs => ⟨hs.idx_le, nofun⟩) (.silent rfl)
  | i3 => exact .command (.delay _) h
  | i4 => exact .kept (.refl s) (.rawp h (.inl rfl) rfl)
  | i5 => exact .kept (.refl s) (.rawp h (.inr (.inl rfl)) rfl)
  | i6 => exact .kept (.refl s) (.rawp h (.inr (.inr (.inl rfl))) rfl)
  | i7 => exact .ite (fun _ => .command (.refl s) h) fun _ => .command (.refl s) h
  | i8 => exact .kept (.refl s) (.rawp h (.inr (.inr (.inr rfl))) rfl)
  | i9 =>
    have hset : (if w = 8 then BusWidth.eight else .four) ≠ .unset := by split <;> nofun
    exact .next (.command (by simpa [commandOk, widthSet, hset] using h))
      (fun hs => ⟨hs.idx_le, fun _ => hset⟩) (.silent rfl)
  | i10 => exact hxfer (.inl rfl) h
  | i11 => exact hxfer (.inr (.inl rfl)) h
  | i12 => exact hxfer (.inr (.inr (.inl rfl))) h
  | i13 => exact hxfer (.inr (.inr (.inr (.inl rfl)))) h
  | i14 => exact hxfer (.inr (.inr (.inr (.inr rfl)))) h
  | i15 =>
    simp only [commandOk, Bool.and_eq_true] at h
    obtain ⟨⟨-, hw⟩, -⟩ := h
    exact .next (.command (by simpa [commandOk, widthSet] using hw))
      (fun hs => ⟨hs.idx_le, fun _ => by simpa [widthSet] using hw⟩) (.silent rfl)
  | ret => exact .ended _

theorem clearStep_sound (l : ClearLabel) {s : State} (hs : SessionOk s) (h : commandOk s (.clear l) = true) :
    Sound s (clearStep l [] s) := by
  cases l with
  | c1 =>
    refine .ite (fun hready => .command (.refl s) ?_) fun _ => .inr rfl
    simpa [commandOk, widthSet, hready] using hs.ready_has_width hready
  | c2 => exact .kept (.refl s) (.xfer h rfl)
  | ret => exact .ended _

/-! ### The cursor of DISPLAY -/

theorem cursorAtTest_iff (s : State) : cursorAtTest s = true ↔ AtTest s.idx.toNat s.cur := by
  simp [cursorAtTest, AtTest]

theorem cursorAtWrite_iff (s : State) : cursorAtWrite s = true ↔ AtWrite s.idx.toNat s.cur := by
  simp [cursorAtWrite, AtWrite]

theorem toNat_sub_one {i : TextIndex} (h : 1 ≤ i.toNat) : (i - 1).toNat = i.toNat - 1 := by
  rw [BitVec.toNat_sub_of_le (by simpa [BitVec.le_def] using h)]
  rfl

theorem displayStep_sound (l : DisplayLabel) {s : State} (hs : SessionOk s) (h : commandOk s (.display l) = true) :
    Sound s (displayStep l [] s) := by
  have hmove {u : State} {l' : DisplayLabel} (hidx : u.idx.toNat ≤ 32) (hw : u.width = s.width) (hsess : u.sess = s.sess)
      (htrace : u.trace = s.trace) (hu : commandOk u (.display l') = true) : Sound s (advance (.display l') [] u) :=
    .next (.command hu) (fun hs => ⟨hidx, hw ▸ hsess ▸ hs.ready_has_width⟩) (.silent htrace)
  have hand {a b c : Bool} (hab : (a && b) = true) (hc : a = true → b = true → c = true) : (a && c) = true := by
    cases a <;> simp_all
  have hpass (h : cursorAtWrite s = true) : s.idx.toNat < 32 ∧ (s.idx + 1).toNat = s.idx.toNat + 1 := by
    have hlt := ((cursorAtWrite_iff s).mp h).1
    exact ⟨hlt, toNat_add_one hlt⟩
  have hidx := hs.idx_le
  cases l with
  | s1 =>
    refine .ite (fun hready => .command (.refl s) ?_) fun _ => .inr rfl
    simpa [commandOk, widthSet, hready] using hs.ready_has_width hready
  | s2 => exact .kept (.refl s) (.xfer (by simpa [callerOk, commandOk] using h) rfl)
  | s3 => exact hmove hidx rfl rfl rfl (Bool.and_eq_true_iff.mpr ⟨h, rfl⟩)
  | s4 =>
    refine hmove (Nat.zero_le 32) rfl rfl rfl (hand h fun _ hcur => (cursorAtTest_iff _).mpr ?_)
    simpa [beq_iff_eq.mp hcur] using AtTest.start
  | s5 =>
    refine .ite (fun _ => .ended _) fun hn => .command (.refl s) (Bool.and_eq_true_iff.mpr ⟨h, ?_⟩)
    simpa [Config.maxIdx] using hn
  | s6 =>
    refine .ite (fun _ => .command (.scratch ..) h) fun hn => absurd ?_ hn
    exact of_decide_eq_true (Bool.and_eq_true_iff.mp h).2
  | s7 => exact .ite (fun _ => .ended _) fun _ => .command (.refl s) h
  | s8 =>
    obtain ⟨hwalk, hlt⟩ := Bool.and_eq_true_iff.mp h
    rw [show displayStep .s8 [] s = advance (.display .s9) [] (forceLine2 s) from rfl, forceLine2_eq]
    exact hmove hidx rfl rfl rfl (hand hwalk fun _ hcur => (cursorAtWrite_iff _).mpr
      (((cursorAtTest_iff s).mp hcur).force (of_decide_eq_true hlt)))
  | s9 =>
    obtain ⟨hlt, hnext⟩ := hpass (Bool.and_eq_true_iff.mp h).2
    refine .ite (fun _ => hmove (hnext.trans_le hlt) rfl rfl rfl (hand h fun _ _ => (cursorAtTest_iff _).mpr ?_))
      fun _ => .command (.refl s) h
    rw [show (takeNewline s).idx.toNat = _ from hnext]
    exact AtTest.newline hlt
  | s10 | s11 => exact .kept (.refl s) (.xfer (by simpa [callerOk, commandOk] using h) rfl)
  | s12 =>
    obtain ⟨hready, hcur⟩ := Bool.and_eq_true_iff.mp h
    obtain ⟨hlt, hnext⟩ := hpass hcur
    refine hmove (hnext.trans_le hlt) rfl rfl rfl
      (Bool.and_eq_true_iff.mpr ⟨Bool.and_eq_true_iff.mpr ⟨hready, ?_⟩, ?_⟩)
    · exact decide_eq_true (hnext ▸ Nat.le_add_left 1 _)
    · rw [cursorAtWrite_iff] at hcur ⊢
      simpa using hcur
  | s13 =>
    obtain ⟨hready, hcur⟩ := Bool.and_eq_true_iff.mp h
    obtain ⟨hready, hle⟩ := Bool.and_eq_true_iff.mp hready
    have hle := of_decide_eq_true hle
    refine hmove hidx rfl rfl rfl (Bool.and_eq_true_iff.mpr ⟨hready, (cursorAtTest_iff _).mpr ?_⟩)
    have hnext := ((cursorAtWrite_iff _).mp hcur).advance
    simp only [toNat_sub_one hle, Nat.sub_add_cancel hle] at hnext
    exact hnext
  | s14 => exact .command (.refl s) h

/-! ### One step of the sequencer, a run of it, a command, one step of the machine -/

theorem Inv.session {s : State} (h : Inv s) : SessionOk s := ⟨h.idx_le, h.ready_has_width⟩

theorem commandStep_sound {s : State} {f : Frame} (hs : SessionOk s) (hu : s.upc = [f]) (h : commandOk s f = true) :
    Sound s (microStep s) := by
  unfold microStep
  rw [hu]
  cases f with
  | wri b l =>
    cases l with
    | call => exact .kept (.refl s) (.xfer rfl rfl)
    | ret => exact .ended _
  | wrd b l =>
    cases l with
    | call => exact .kept (.refl s) (.xfer rfl rfl)
    | ret => exact .ended _
  | init w l => exact initStep_sound w l h
  | clear l => exact clearStep_sound l hs h
  | display l => exact displayStep_sound l hs h
  | xfer k b l => cases h
  | nibp v l => cases h
  | rawp v n l => cases h
  | bfw l => cases h

/-- Every label of the sequencer, under the invariant. -/
theorem microStep_sound {s : State} (h : Inv s) (hseq : s.seq = .running) : Sound s (microStep s) := by
  have hstack := (stackOk_iff s).mp h.stack
  generalize hu : s.upc = frames at hstack
  cases hstack with
  | empty => exact absurd (h.idle_iff_empty.mpr hu) (by simp [hseq])
  | command hf => exact commandStep_sound h.session hu hf
  | xfer hc hx => unfold microStep; rw [hu]; exact xferStep_sound _ _ _ hc hx
  | rawp hinit hil hr => unfold microStep; rw [hu]; exact rawpStep_sound _ _ _ hinit hil hr
  | nibp hc ho hl => unfold microStep; rw [hu]; exact nibpStep_sound _ _ hc ho hl
  | bfw hc hw hb => unfold microStep; rw [hu]; exact bfwStep_sound _ hc hw hb

/-- The outcomes that the invariant leaves: a state that meets it, or one of the two refusals of a session. -/
def InvOrRefused : Host.Outcome State Fault Refusal → Prop
  | .next t => Inv t
  | .refused r => r = .useBeforeInit ∨ r = .notReady
  | .fault _ => False

theorem Inv.microStep {s : State} (h : Inv s) (hseq : s.seq = .running) : InvOrRefused (microStep s) := by
  have hsound := microStep_sound h hseq
  cases ho : Machine.microStep s with
  | fault r => rwa [ho] at hsound
  | refused r => rwa [ho] at hsound
  | next t =>
    rw [ho] at hsound
    obtain ⟨hstack, hsession, -⟩ := hsound
    obtain ⟨hidx, hready⟩ := hsession h.session
    have hframe := microStep_frame ho
    refine ⟨hframe.txt ▸ h.txt_wf, ?_, hready, fun hcap => ?_, hidx, (stackOk_iff t).mpr hstack⟩
    · obtain ⟨ht, hne⟩ | ⟨ht, hnil⟩ := hframe.seq
      · exact iff_of_false (by simp [ht, hseq]) hne
      · exact iff_of_true ht hnil
    · rw [hframe.cfg] at hcap
      obtain herr | ⟨hsome, -⟩ := hframe.errDnr
      · exact herr.trans (h.no_error_without_cap hcap)
      · exact absurd hcap hsome

theorem Inv.microRun {s : State} (h : Inv s) (n : Nat) : InvOrRefused (microRun n s) := by
  induction n generalizing s with
  | zero => exact h
  | succ n ih =>
    cases hseq : s.seq with
    | idle => rwa [microRun_idle _ hseq]
    | running =>
      have hstep := h.microStep hseq
      simp only [Machine.microRun, hseq]
      cases ho : Machine.microStep s with
      | next t => exact ih (by rwa [ho] at hstep)
      | fault r => rwa [ho] at hstep
      | refused r => rwa [ho] at hstep

/-- An accepted command stands at a label that promises nothing. -/
theorem Inv.accept {s : State} (h : Inv s) (i : Instr) : Inv (acceptCommand i s) := by
  refine ⟨h.txt_wf, iff_of_false nofun nofun, h.ready_has_width, h.no_error_without_cap, h.idx_le, ?_⟩
  cases i <;> rfl

/-- A command run whole is a run of the sequencer. -/
theorem Inv.exec {s : State} (h : Inv s) (i : Instr) : InvOrRefused (exec i s) := by
  obtain ⟨n, hn⟩ := leads_exec i s
  exact hn ▸ (h.accept i).microRun n

theorem Inv.presentText {s : State} (h : Inv s) (text : Option (List Byte)) (rest : List HostAct) :
    Inv (presentText text { s with host := rest }) := by
  cases text with
  | none => exact ⟨h.txt_wf, h.idle_iff_empty, h.ready_has_width, h.no_error_without_cap, h.idx_le, h.stack⟩
  | some bs =>
    exact ⟨Memory.ofBytes_wf bs, h.idle_iff_empty, h.ready_has_width, h.no_error_without_cap, h.idx_le, h.stack⟩

theorem Inv.resetEvent {s : State} (h : Inv s) (rest : List HostAct) : Inv (resetEvent { s with host := rest }) :=
  ⟨h.txt_wf, iff_of_true rfl rfl, nofun, fun _ => rfl, Nat.zero_le 32, rfl⟩

/-- The directions matter only while a command runs. -/
theorem Inv.foreignWrite {s : State} (h : Inv s) (hseq : s.seq = .idle) (r : PortReg) (v : Byte) (rest : List HostAct) :
    Inv (foreignWrite r v { s with host := rest }) := by
  have hstack {u : State} (hu : u.upc = s.upc) : stackOk u = true := by
    rw [stackOk_iff, hu, h.idle_iff_empty.mp hseq]
    exact .empty
  cases r <;> exact ⟨h.txt_wf, h.idle_iff_empty, h.ready_has_width, h.no_error_without_cap, h.idx_le, hstack rfl⟩

/-- What a step of the machine comes to under the invariant. -/
theorem Inv.step {s : State} (h : Inv s) :
    InvOrRefused (step s) ∨ ∃ e, step s = .refused (.reservedCommand e) := by
  generalize ho : Machine.step s = o
  cases step_cases ho with
  | reset => exact .inl (h.resetEvent _)
  | running hseq _ ho => exact .inl (ho ▸ h.microStep hseq)
  | waits => exact .inl h
  | portWrite hseq => exact .inl (h.foreignWrite hseq _ _ _)
  | reserved => exact .inr ⟨_, rfl⟩
  | command hseq _ _ ho => exact .inl (ho ▸ (h.presentText _ _).exec _)

/-! ### The obligations -/

/-- Settles O41: one lemma for each procedure of the sequencer, and a command is a run of it. -/
theorem stepKeepsInvariant : Obligations.StepKeepsInvariant := by
  unfold Obligations.StepKeepsInvariant
  intro s t h ht
  obtain hstep | ⟨e, he⟩ := h.step
  · rwa [ht] at hstep
  · rw [he] at ht
    cases ht

/-- Settles O42: the outcomes that the invariant leaves. -/
theorem onlyTheHostCanBeRefused : Obligations.OnlyTheHostCanBeRefused := by
  unfold Obligations.OnlyTheHostCanBeRefused
  intro s h
  obtain hstep | hreserved := h.step
  · cases ho : step s with
    | next t => exact .inl ⟨t, rfl⟩
    | fault f =>
      rw [ho] at hstep
      exact hstep.elim
    | refused r =>
      rw [ho] at hstep
      obtain rfl | rfl := hstep
      · exact .inr (.inr (.inl rfl))
      · exact .inr (.inr (.inr rfl))
  · exact .inr (.inl hreserved)

end Sys2Proof.Machine
end

section
/-! PROOFS. The ports while a command runs (spec/40_pin_interface.md R82, R83; spec/70_reset_and_hazards.md R152): what the directions
and the control lines are at the label about to run. -/

namespace Sys2Proof.Machine

/-! ### Directions -/

/-- Only `driveBus` emits BusW. -/
theorem MicroOp.driveBusValid_of_busW {s t : State} {v : Byte} (op : MicroOp s t) (hev : newEvents s t = [.busW v]) :
    driveBusValid s = true := by
  cases op with
  | drive w upc h => exact h
  | silent h => simp [newEvents, h] at hev
  | outputs p | busyInput | restoreSv1Cp | restoreSv1Bp | restoreSv2Cp | restoreSv2Bp | control | wait =>
    simp [newEvents] at hev
  | sample upc h =>
    obtain ⟨w, hw⟩ := sampleBusy_trace s
    simp [newEvents, hw] at hev
  | fault => simp [newEvents, raiseDeviceNotResponding_eq] at hev

/-- Only a sample emits BusR. -/
theorem MicroOp.readBusValid_of_busR {s t : State} {v : Byte} (op : MicroOp s t) (hev : newEvents s t = [.busR v]) :
    readBusValid s = true := by
  cases op with
  | sample upc h => exact h
  | silent h => simp [newEvents, h] at hev
  | outputs p | busyInput | restoreSv1Cp | restoreSv1Bp | restoreSv2Cp | restoreSv2Bp | control | wait | drive =>
    simp [newEvents] at hev
  | fault => simp [newEvents, raiseDeviceNotResponding_eq] at hev

/-- Settles O43: BusW and BusR carry the guard of their micro-operation, and the stack keeps the control port open at every
label that writes a control line. -/
theorem arbiterDiscipline : Obligations.ArbiterDiscipline := by
  unfold Obligations.ArbiterDiscipline
  intro s t h hseq ht
  refine ⟨fun ⟨v, hev⟩ => ?_, fun ⟨v, hev⟩ => ?_, fun hev => ?_⟩
  · exact beq_iff_eq.mp ((microStep_microOp ht).driveBusValid_of_busW hev)
  · simpa [readBusValid, getBit, Config.bfBit] using (microStep_microOp ht).readBusValid_of_busR hev
  · have hsound := microStep_sound h hseq
    rw [ht] at hsound
    obtain ⟨-, -, hcontrols⟩ := hsound
    exact hcontrols hev

/-- Settles O45: at step B8 the stack gives both directions. -/
theorem pollLeavesLowPinsDriven : Obligations.PollLeavesLowPinsDriven := by
  unfold Obligations.PollLeavesLowPinsDriven
  intro s below h hu
  have hstack := (stackOk_iff s).mp h.stack
  rw [hu] at hstack
  cases hstack with
  | command hf => cases hf
  | bfw hc hw hb =>
    simp only [bfwOk, Bool.and_eq_true, beq_iff_eq] at hb
    obtain ⟨⟨⟨hcp, hbp⟩, -⟩, -⟩ := hb
    have hall : ∀ k : Fin 8, getBit 0xFF k = true := by decide
    have hlow : ∀ k : Fin 8, k ≠ 7 → getBit 0x7F k = true := by decide
    refine ⟨fun k => ?_, ?_, fun k hk => ?_⟩
    · rw [controlPin, hcp, if_pos (hall k)]
    · rw [busPin, hbp, if_neg (by decide)]
    · rw [busPin, hbp, if_pos (hlow k hk)]

/-! ### The control lines, label by label -/

theorem enLow_setControl_en (s : State) : enLow (setControl .en false s) = true := by
  simp [enLow, line_setControl_same]

theorem enLow_setControl_other {l : Line} (h : l ≠ .en) (b : Bool) (s : State) : enLow (setControl l b s) = enLow s := by
  rw [enLow, enLow, line_setControl_other h.symm]

/-- Where this outcome is a next state, the lines are as its label promises. -/
def LinesNext : Host.Outcome State Fault Refusal → Prop
  | .next t => LinesOk t
  | .fault _ => True
  | .refused _ => True

namespace LinesNext
variable {s u : State} {f : Frame} {below : List Frame}

theorem ite {c : Prop} [Decidable c] {a b : Host.Outcome State Fault Refusal} (ha : c → LinesNext a)
    (hb : ¬c → LinesNext b) : LinesNext (if c then a else b) := by
  split
  · exact ha ‹_›
  · exact hb ‹_›

theorem advance (h : linesAt u f = true) : LinesNext (advance f below u) := h

theorem drive {v : Byte} (h : linesAt (driveBus v s) f = true) : LinesNext (driveStep v f below s) :=
  ite (fun _ => advance h) fun _ => trivial

/-- The return from the bottom frame. -/
theorem ended {o : CmdOutcome} (h : enLow s = true) : LinesNext (returnWith o [] s) := h

end LinesNext

/-- The frame of a command promises EN = 0. -/
theorem linesAt_of_callerOk {s : State} {f : Frame} (hc : callerOk s f = true) (h : enLow s = true) :
    linesAt s f = true := by
  cases f with
  | wri | wrd | init | clear | display => exact h
  | xfer | nibp | rawp | bfw => cases hc

theorem xferStep_lines (k : Bool) (b : Byte) (l : XferLabel) {f : Frame} {s : State} (hc : callerOk s f = true)
    (h : linesAt s (.xfer k b l) = true) : LinesNext (xferStep k b l [f] s) := by
  cases l with
  | x1 | x2 | x3 | x5 | x6 | x8 | x9 => exact .advance h
  | x4 => exact .ite (fun _ => trivial) fun _ => .advance h
  | x7 => exact .ite (fun _ => .advance h) fun _ => .advance h
  | e1 => exact .advance (enLow_setControl_en s)
  | e2 => exact .drive h
  | e3 | f1 => exact .advance (by simpa [linesAt, enLow_setControl_other] using h)
  | e4 | f2 => exact .advance (by simpa [linesAt, enLow_setControl_other, line_setControl_same] using h)
  | e5 =>
    obtain ⟨-, hrw⟩ := Bool.and_eq_true_iff.mp h
    exact .advance (by simpa [linesAt, line_setControl_other] using hrw)
  | e6 =>
    simp only [xferStep]
    split
    · exact .advance h
    · exact .advance (by simpa [linesAt, line_setControl_other] using h)
  | e7 | f3 | f4 => exact h
  | f5 => exact (Bool.and_eq_true_iff.mp h).2
  | ret => exact linesAt_of_callerOk hc h

theorem nibpStep_lines (v : Byte) (nl : NibpLabel) {k : Bool} {b : Byte} {l : XferLabel} {f : Frame} {s : State}
    (hl : l = .f4 ∨ l = .f5) (h : linesAt s (.nibp v nl) = true) : LinesNext (nibpStep v nl [.xfer k b l, f] s) := by
  cases nl with
  | n1 => exact .drive h
  | n2 =>
    obtain ⟨-, hrw⟩ := Bool.and_eq_true_iff.mp h
    exact .advance (by simpa [linesAt, line_setControl_other] using hrw)
  | n3 | n5 => exact .advance h
  | n4 => exact .advance (by simpa [linesAt, enLow_setControl_en, line_setControl_other] using h)
  | ret => obtain rfl | rfl := hl <;> exact h

theorem rawpStep_lines (v : Byte) (n : Nat) (l : RawpLabel) {w : Nat} {il : InitLabel} {s : State}
    (h : linesAt s (.rawp v n l) = true) : LinesNext (rawpStep v n l [.init w il] s) := by
  cases l with
  | p1 | p2 | p3 | p4 | p11 | p12 | p13 => exact .advance h
  | p5 => exact .advance (enLow_setControl_en s)
  | p6 => exact .drive h
  | p7 => exact .advance (by simpa [linesAt, enLow_setControl_other] using h)
  | p8 => exact .advance (by simp [linesAt, line_setControl_same])
  | p9 => exact .advance (by simpa [linesAt, line_setControl_other] using h)
  | p10 => exact .advance (enLow_setControl_en s)
  | ret => exact h

theorem bfwStep_lines (l : BfwLabel) {k : Bool} {b : Byte} {f : Frame} {s : State} (h : linesAt s (.bfw l) = true) :
    LinesNext (bfwStep l [.xfer k b .x8, f] s) := by
  cases l with
  | b1 | b2 | b4 | b5 | b6 | b7 | b10 | b12 | b13 | b14 => exact .advance h
  | b3 => exact .advance (by simp [linesAt, setDirection, Config.bfMask, maskDirection_input])
  | b8 => exact .ite (fun _ => .advance (by simpa [linesAt] using h)) fun _ => trivial
  | b9 => exact .advance (Bool.and_eq_true_iff.mpr ⟨h, enLow_setControl_en s⟩)
  | b11 =>
    obtain ⟨hinput, hlow⟩ := Bool.and_eq_true_iff.mp h
    have hfault : LinesOk (raiseDeviceNotResponding s) := by rwa [raiseDeviceNotResponding_eq]
    exact .ite (fun _ => .ite (fun _ => hfault) fun _ => .advance hinput) fun _ => .advance hlow
  | ret => exact h

/-- The steps of a command itself write no control line. -/
theorem initStep_lines (w : Nat) {s : State} (h : enLow s = true) : ∀ l, LinesNext (initStep w l [] s)
  | .i1 => .ite (fun _ => .ended h) fun _ => .advance h
  | .i7 => .ite (fun _ => .advance h) fun _ => .advance h
  | .ret => .ended h
  | .i2 | .i3 | .i4 | .i5 | .i6 | .i8 | .i9 | .i10 | .i11 | .i12 | .i13 | .i14 | .i15 => h

theorem clearStep_lines {s : State} (h : enLow s = true) : ∀ l, LinesNext (clearStep l [] s)
  | .c1 => .ite (fun _ => .advance h) fun _ => trivial
  | .c2 => h
  | .ret => .ended h

theorem displayStep_lines {s : State} (h : enLow s = true) : ∀ l, LinesNext (displayStep l [] s)
  | .s1 | .s6 => .ite (fun _ => .advance h) fun _ => trivial
  | .s5 | .s7 => .ite (fun _ => .ended h) fun _ => .advance h
  | .s8 => .advance (by rw [forceLine2_eq]; exact h)
  | .s9 => .ite (fun _ => .advance h) fun _ => .advance h
  | .s2 | .s3 | .s4 | .s10 | .s11 | .s12 | .s13 | .s14 => h

theorem commandStep_lines {s : State} {f : Frame} (hu : s.upc = [f]) (hf : commandOk s f = true)
    (h : linesAt s f = true) : LinesNext (microStep s) := by
  unfold microStep
  rw [hu]
  cases f with
  | wri b l | wrd b l => cases l <;> exact h
  | init w l => exact initStep_lines w h l
  | clear l => exact clearStep_lines h l
  | display l => exact displayStep_lines h l
  | xfer | nibp | rawp | bfw => cases hf

/-- Every label keeps the promises of the lines. -/
theorem microStep_lines {s : State} (hinv : Inv s) (h : LinesOk s) : LinesNext (microStep s) := by
  have hstack := (stackOk_iff s).mp hinv.stack
  unfold LinesOk at h
  generalize hu : s.upc = frames at hstack h
  cases hstack with
  | empty => unfold microStep; rw [hu]; trivial
  | command hf => exact commandStep_lines hu hf h
  | xfer hc hx => unfold microStep; rw [hu]; exact xferStep_lines _ _ _ hc h
  | rawp hinit hil hr => unfold microStep; rw [hu]; exact rawpStep_lines _ _ _ h
  | nibp hc ho hl => unfold microStep; rw [hu]; exact nibpStep_lines _ _ hl h
  | bfw hc hw hb => unfold microStep; rw [hu]; exact bfwStep_lines _ h

/-- Every promise of a label rules out RW and EN both 1 with bus bit 7 an output. -/
theorem linesAt_cases {s : State} {f : Frame} (h : linesAt s f = true) :
    enLow s = true ∨ line s .rw = false ∨ s.bpDir.getLsbD 7 = false := by
  have hwrite (h : (!line s .rw) = true) : enLow s = true ∨ line s .rw = false ∨ s.bpDir.getLsbD 7 = false :=
    .inr (.inl ((Bool.not_eq_true' _).mp h))
  have hinput (h : (!s.bpDir.getLsbD 7) = true) : enLow s = true ∨ line s .rw = false ∨ s.bpDir.getLsbD 7 = false :=
    .inr (.inr ((Bool.not_eq_true' _).mp h))
  cases f with
  | wri | wrd | init | clear | display => exact .inl h
  | xfer k b l =>
    cases l with
    | x1 | x2 | x3 | x4 | x5 | x6 | x7 | x8 | x9 | ret | e1 | e2 | e3 | e4 | f1 | f2 => exact .inl h
    | e5 | f3 | f4 | f5 => exact .inl (Bool.and_eq_true_iff.mp h).1
    | e6 | e7 => exact hwrite h
  | nibp v l =>
    cases l with
    | n1 | n2 | n5 | ret => exact .inl (Bool.and_eq_true_iff.mp h).1
    | n3 | n4 => exact hwrite h
  | rawp v n l =>
    cases l with
    | p9 | p10 => exact hwrite h
    | p1 | p2 | p3 | p4 | p5 | p6 | p7 | p8 | p11 | p12 | p13 | ret => exact .inl h
  | bfw l =>
    cases l with
    | b1 | b2 | b3 => exact hwrite h
    | b4 | b5 | b6 | b7 | b8 | b9 => exact hinput h
    | b10 | b11 => exact hinput (Bool.and_eq_true_iff.mp h).1
    | b12 | b13 | b14 | ret => exact .inl h

theorem readKeepsBit7_of_linesOk {s : State} (h : LinesOk s) : readKeepsBit7 s = true := by
  have hcases : enLow s = true ∨ line s .rw = false ∨ s.bpDir.getLsbD 7 = false := by
    unfold LinesOk at h
    split at h
    · exact .inl h
    · exact linesAt_cases h
  obtain hlow | hrw | hinput := hcases
  · simp_all [readKeepsBit7, enLow]
  · simp [readKeepsBit7, hrw]
  · rw [readKeepsBit7, hinput, Bool.not_false, Bool.or_true]

/-- Settles O44: label by label. -/
theorem readCycleNeverDrivesBit7 : Obligations.ReadCycleNeverDrivesBit7 := by
  unfold Obligations.ReadCycleNeverDrivesBit7
  refine ⟨fun i s h => by cases i <;> exact h, fun s t hinv h hseq ht => ?_⟩
  have hnext := microStep_lines hinv h
  rw [ht] at hnext
  have hlines : LinesOk t := hnext
  refine ⟨hlines, readKeepsBit7_of_linesOk hlines, fun hu => ?_⟩
  rw [LinesOk, hu] at hlines
  simpa [enLow] using hlines

end Sys2Proof.Machine
end

section
/-! PROOFS. A command need not return (spec/60_exceptions.md R124): the oracle can stay busy past any number of steps. -/

namespace Sys2Proof.Machine

/-- With nothing to take from the host, a step leaves it nothing to take. -/
theorem step_host_nil {s t : State} (hhost : s.host = []) (h : step s = .next t) : t.host = [] := by
  cases step_cases h with
  | running _ _ ho => exact (microStep_frame ho).host.trans hhost
  | waits => exact hhost
  | reset hact | portWrite _ hact | command _ hact => rw [hhost] at hact; cases hact

/-- A block that has come to rest stays there, with nothing to take from the host. -/
theorem core_run_idle {s t : State} {m k : Nat} (hhost : s.host = []) (h : Host.Core.run Sys2Proof.core m s = .next t)
    (ht : t.seq = .idle) (hle : m ≤ k) : Host.Core.run Sys2Proof.core k s = .next t := by
  induction k generalizing s m with
  | zero =>
    obtain rfl := Nat.le_zero.mp hle
    exact h
  | succ k ih =>
    cases m with
    | zero =>
      cases h
      have hstep : step t = .next t := step_waits ht hhost
      simpa only [Host.Core.run, Sys2Proof.core, hstep] using ih (m := 0) hhost rfl (Nat.zero_le k)
    | succ m =>
      cases hs : step s with
      | fault f => simp [Host.Core.run, Sys2Proof.core, hs] at h
      | refused r => simp [Host.Core.run, Sys2Proof.core, hs] at h
      | next u =>
        simp only [Host.Core.run, Sys2Proof.core, hs] at h ⊢
        exact ih (step_host_nil hhost hs) h (Nat.le_of_succ_le_succ hle)

/-- A block in the wait of WRD 0x41, in eight-bit mode with no cap, whose display gives these answers. -/
def waiting (answers : List Byte) : State :=
  { State.reset with
    width := .eight, seq := .running, upc := [.bfw .b7, .xfer true 0x41 .x8, .wrd 0x41 .ret]
    cpDir := 0xFF, bpDir := 0x7F, sv2Cp := 0xFF, sv2Bp := 0xFF, answers := answers }

theorem waiting_inv (answers : List Byte) : Inv (waiting answers) :=
  ⟨rfl, iff_of_false nofun nofun, nofun, fun _ => rfl, Nat.zero_le 32, rfl⟩

/-- Refutes O58: `n` busy answers keep the block of `waiting` running for 5 n steps. -/
theorem not_everyCommandReturns : ¬ Obligations.EveryCommandReturns := by
  unfold Obligations.EveryCommandReturns
  rintro ⟨n, h⟩
  have hbusy : (List.replicate n (0x80 : Byte)).all busyFlag = true :=
    List.all_eq_true.mpr fun v hv => (List.eq_of_mem_replicate hv) ▸ rfl
  have hread : readBusValid (waiting (List.replicate n 0x80)) = true := by
    change readBusValid (waiting []) = true
    decide
  obtain ⟨u, hrun, hu, -⟩ := busyDisplayKeepsSpinning (waiting (List.replicate n 0x80)) _ _ [] rfl rfl rfl nofun hread
    (List.append_nil (List.replicate n 0x80)).symm hbusy
  obtain ⟨m, hm, t, hidle, ht⟩ := h (waiting (List.replicate n 0x80)) (waiting_inv _) rfl rfl
  have hrest := core_run_idle rfl hidle ht (show m ≤ 5 * (List.replicate n (0x80 : Byte)).length by simp; omega)
  rw [hrun] at hrest
  cases hrest
  rw [ht] at hu
  cases hu

end Sys2Proof.Machine
end
